-- ==== Sys2Proof/Word.lean ====
section
/-! DEFINITION. The word types of the block (00_scope R8, R10, R14). -/

namespace Sys2Proof

/-- One byte of a window or a memory. -/
abbrev Byte := BitVec 8

/-- A 32-bit register or bus word (00_scope R8). -/
abbrev Word := BitVec 32

/-- A packed RGB565 pixel, one 16-bit value (00_scope R14). -/
abbrev Pixel := BitVec 16

end Sys2Proof
end

