-- ==== Sys2Proof/Config.lean ====
section
/-! DEFINITION. What a build fixes (00_scope R7) and the free values the spec leaves open
(93_implementation_defined U1 to U7). -/

namespace Sys2Proof

/-- The agents of 10_state R30. -/
inductive Agent where
  | host
  | scan
  | engine
  | reset
  deriving DecidableEq, Repr, Inhabited

/-- The implementation parameters of 00_scope R7, which a model takes as arguments. -/
structure Params where
  /-- `NPADS`: the legal pin numbers are `0 .. npads - 1`. -/
  npads : Nat
  /-- `FB_BYTES` -/
  fbBytes : Nat
  /-- `SCR_BYTES` -/
  scrBytes : Nat
  defHsw : BitVec 16
  defHbp : BitVec 16
  defHfp : BitVec 16
  defVsw : BitVec 16
  defVbp : BitVec 16
  defVfp : BitVec 16
  defPclkdiv : BitVec 16
  deriving DecidableEq, Repr

/-- The legal ranges of 00_scope R7 (the 16-bit fields have theirs by their type). -/
abbrev Params.legal (p : Params) : Prop :=
  (25 ≤ p.npads ∧ p.npads ≤ 254) ∧
  (2 ≤ p.fbBytes ∧ p.fbBytes ≤ 0x100000 ∧ p.fbBytes % 2 = 0) ∧
  (p.scrBytes ≤ 0x100000 ∧ p.scrBytes % 2 = 0) ∧
  p.defHsw ≠ 0 ∧ p.defVsw ≠ 0

/-- The reference values of 00_scope R7. -/
def Params.reference : Params where
  npads := 48
  fbBytes := 0x100000
  scrBytes := 0x20000
  defHsw := 8
  defHbp := 20
  defHfp := 10
  defVsw := 4
  defVbp := 10
  defVfp := 8
  defPclkdiv := 3

namespace Config

/-- FREE VALUE (U1, U2, U3): the byte at an offset of FB that nothing has written since its content
became unspecified for the `epoch`-th time (log entry 5). -/
opaque fbDraw : (epoch offset : Nat) → Byte

/-- FREE VALUE (U4): the same for SCR (log entry 5). -/
opaque scrDraw : (epoch offset : Nat) → Byte

/-- FREE VALUE (U6): whether the `n`-th SIGSTATE read taken while RUNNING falls in the second half of
the pixel period (log entry 6). -/
opaque pclkDraw : (n : Nat) → Bool

/-- FREE VALUE (U5): the level at pad `p`, at an observer's moment `t`, of a pad the block does not
drive (log entry 9). -/
opaque undrivenPad : (t p : Nat) → Bool

/-- FREE VALUE (U7): the agent that moves at the `n`-th turn nothing else decides (log entry 2). -/
opaque freeTurn : (n : Nat) → Agent

end Config

end Sys2Proof
end

