-- ==== Sys2Proof/Syntax.lean ====
section
/-! DEFINITION. The instructions: one constructor per row of spec/opcode_table.json. -/

namespace Sys2Proof

/-- The ten raster commands written to CMD (30_encoding R152, R153) and the three actions written to
CTRL (30_encoding R155). Operands are the fields of the written word; a field the spec says is
ignored (`imm`, `rsv`) is kept, so that no bit of the word is lost. The operand registers ARG0..ARG3
and KEY are state, not fields. -/
inductive Instr where
  /-- FILL (OP 0x01) -/
  | fill (color : Pixel)
  /-- FILL_RECT (OP 0x02) -/
  | fillRect (color : Pixel)
  /-- RECT (OP 0x03); `filled` is FLAG F -/
  | rect (filled : Bool) (color : Pixel)
  /-- HLINE (OP 0x04) -/
  | hline (color : Pixel)
  /-- VLINE (OP 0x05) -/
  | vline (color : Pixel)
  /-- LINE (OP 0x06) -/
  | line (color : Pixel)
  /-- PIXEL_SET (OP 0x07) -/
  | pixelSet (color : Pixel)
  /-- PIXEL_GET (OP 0x08); `imm` is ignored -/
  | pixelGet (imm : BitVec 16)
  /-- BLIT (OP 0x09); `keyed` is FLAG K, `imm` is ignored -/
  | blit (keyed : Bool) (imm : BitVec 16)
  /-- ROTATE (OP 0x0A); `angle` in degrees -/
  | rotate (angle : BitVec 16)
  /-- CTRL INIT; `rsv` is bits 31:3, ignored -/
  | init (rsv : BitVec 29)
  /-- CTRL RUN; `rsv` is bits 31:3, ignored -/
  | run (rsv : BitVec 29)
  /-- CTRL DEINIT; `rsv` is bits 31:3, ignored -/
  | deinit (rsv : BitVec 29)
  deriving DecidableEq, Repr

end Sys2Proof
end

