-- ==== Sys2Proof/WellFormed.lean ====
section
/-! DEFINITION. The instructions in the canonical form in which 30_encoding R155 and R156 spell them.
Not a condition of execution: the machine gives every instruction its meaning, the ill-formed ones
too (ignored bits are ignored, an invalid angle is rejected by R376). -/

namespace Sys2Proof

/-- The four rotation angles in degrees (44_raster_blit_rotate R375, R376). -/
def validAngle (angle : BitVec 16) : Bool :=
  angle == 0 || angle == 90 || angle == 180 || angle == 270

/-- Ignored fields are zero, as 30_encoding R155 and R156 write them, and the angle is one of R375's
four. -/
def Instr.wellFormed : Instr → Bool
  | .fill _ => true
  | .fillRect _ => true
  | .rect _ _ => true
  | .hline _ => true
  | .vline _ => true
  | .line _ => true
  | .pixelSet _ => true
  | .pixelGet imm => imm == 0
  | .blit _ imm => imm == 0
  | .rotate angle => validAngle angle
  | .init rsv => rsv == 0
  | .run rsv => rsv == 0
  | .deinit rsv => rsv == 0

end Sys2Proof
end

