-- ==== Sys2Proof/Decode.lean ====
section
/-! DEFINITION. The decoder of 30_encoding R153 and R155, total on any bytes, and the encoder. A word
is decoded for the PORT it is written to: CMD and CTRL have separate encodings. -/

namespace Sys2Proof

/-- The two action registers: CMD (offset 0x040) and CTRL (offset 0x000). -/
inductive Port where
  | cmd
  | ctrl
  deriving DecidableEq, Repr

/-- Why a word is no instruction. -/
inductive DecodeError where
  /-- CMD: OP is 0x00 or 0x0B..0xFF (30_encoding R153, R154) -/
  | reservedOpcode
  /-- CMD: bits 15:9 are not 0 (R153) -/
  | reservedBits
  /-- CMD: FLAG is 1 and OP is neither RECT nor BLIT (R153) -/
  | flagNotAllowed
  /-- CTRL: none of bits 2:0 is set (10_state R37: the write does nothing) -/
  | noAction
  /-- CTRL: two or more of bits 2:0 are set (10_state R37: Err(ARG)) -/
  | severalActions
  /-- fewer than four bytes; no register access of the block delivers this (20_memory R107) -/
  | shortWord
  deriving DecidableEq, Repr

/-- What a decoder answers. -/
inductive Decoded where
  | instr (i : Instr)
  | reject (e : DecodeError)
  deriving DecidableEq, Repr

/-- OP, FLAG, RSV and IMM of 30_encoding R150. -/
def cmdOp (c : Word) : BitVec 8 := c.extractLsb' 0 8
def cmdFlag (c : Word) : Bool := c.getLsbD 8
def cmdRsv (c : Word) : BitVec 7 := c.extractLsb' 9 7
def cmdImm (c : Word) : BitVec 16 := c.extractLsb' 16 16

/-- The opcode map of 30_encoding R153, the flag and immediate already taken out of the word. -/
def commandOf (op : BitVec 8) (flag : Bool) (imm : BitVec 16) : Option Instr :=
  match op.toNat with
  | 0x01 => some (.fill imm)
  | 0x02 => some (.fillRect imm)
  | 0x03 => some (.rect flag imm)
  | 0x04 => some (.hline imm)
  | 0x05 => some (.vline imm)
  | 0x06 => some (.line imm)
  | 0x07 => some (.pixelSet imm)
  | 0x08 => some (.pixelGet imm)
  | 0x09 => some (.blit flag imm)
  | 0x0A => some (.rotate imm)
  | _ => none

/-- The decoder of a word written to CMD: the three tests of 30_encoding R153, in its order. -/
def decodeCmd (c : Word) : Decoded :=
  match commandOf (cmdOp c) (cmdFlag c) (cmdImm c) with
  | none => .reject .reservedOpcode
  | some i =>
    if cmdRsv c ≠ 0 then .reject .reservedBits
    else if cmdFlag c = true ∧ cmdOp c ≠ 0x03 ∧ cmdOp c ≠ 0x09 then .reject .flagNotAllowed
    else .instr i

/-- The decoder of a word written to CTRL (10_state R37, 30_encoding R155). -/
def decodeCtrl (v : Word) : Decoded :=
  match v.getLsbD 0, v.getLsbD 1, v.getLsbD 2 with
  | false, false, false => .reject .noAction
  | true, false, false => .instr (.init (v.extractLsb' 3 29))
  | false, true, false => .instr (.run (v.extractLsb' 3 29))
  | false, false, true => .instr (.deinit (v.extractLsb' 3 29))
  | _, _, _ => .reject .severalActions

def decodeWord : Port → Word → Decoded
  | .cmd, w => decodeCmd w
  | .ctrl, w => decodeCtrl w

/-- A register word from its bytes, the first at the lowest address (20_memory R103: little-endian). -/
def wordOfBytes (b0 b1 b2 b3 : Byte) : Word := b3 ++ b2 ++ b1 ++ b0

/-- The decoder on bytes as they lie in the register: the first four are the word. -/
def decodeBytes (p : Port) : List Byte → Decoded
  | b0 :: b1 :: b2 :: b3 :: _ => decodeWord p (wordOfBytes b0 b1 b2 b3)
  | _ => .reject .shortWord

/-- The register an instruction is written to. -/
def Instr.port : Instr → Port
  | .init _ | .run _ | .deinit _ => .ctrl
  | _ => .cmd

/-- The command word of 30_encoding R150: IMM, RSV = 0, FLAG, OP. -/
def cmdWord (imm : BitVec 16) (flag : Bool) (op : BitVec 8) : Word :=
  imm ++ (0 : BitVec 7) ++ BitVec.ofBool flag ++ op

/-- The word to write for an instruction (30_encoding R152, R155). -/
def encode : Instr → Word
  | .fill color => cmdWord color false 0x01
  | .fillRect color => cmdWord color false 0x02
  | .rect filled color => cmdWord color filled 0x03
  | .hline color => cmdWord color false 0x04
  | .vline color => cmdWord color false 0x05
  | .line color => cmdWord color false 0x06
  | .pixelSet color => cmdWord color false 0x07
  | .pixelGet imm => cmdWord imm false 0x08
  | .blit keyed imm => cmdWord imm keyed 0x09
  | .rotate angle => cmdWord angle false 0x0A
  | .init rsv => rsv ++ (0b001 : BitVec 3)
  | .run rsv => rsv ++ (0b010 : BitVec 3)
  | .deinit rsv => rsv ++ (0b100 : BitVec 3)

/-- The bytes of a word, the first at the lowest address (20_memory R103). -/
def bytesOfWord (w : Word) : List Byte :=
  [w.extractLsb' 0 8, w.extractLsb' 8 8, w.extractLsb' 16 8, w.extractLsb' 24 8]

/-- The bytes of an instruction's word as they lie in its register. -/
def encodeBytes (i : Instr) : List Byte := bytesOfWord (encode i)

/-- The port of a row of spec/opcode_table.json, from the number of bits the table gives it: the
CTRL rows fix only bits 2:0, so they have 8 bits at most; every CMD row has 16 or 32 (log entry 8). -/
def tablePort (nbits : Nat) : Port := if nbits ≤ 8 then .ctrl else .cmd

/-- The word of a table row: the bits above `nbits` are 0. -/
def tableWord (nbits w : Nat) : Word := BitVec.ofNat 32 (w % 2 ^ nbits)

/-- The instruction the decoder reads from a word of the opcode table, numbered as the table does. -/
def decodeTableWord (nbits w : Nat) : Option Instr :=
  match decodeBytes (tablePort nbits) (bytesOfWord (tableWord nbits w)) with
  | .instr i => some i
  | .reject _ => none

end Sys2Proof
end

