-- ==== Sys2Proof/Machine/State.lean ====
section
/-! DEFINITION. The state of the block: the record of 10_state R34, every field of it, and the
model's own fields (the inputs still to come, the outputs so far, the counters of the free values),
each marked as such. -/

namespace Sys2Proof.Machine

/-- DriverState, STATUS.STATE (10_state R38). -/
inductive DriverState where
  | uninit
  | initializing
  | running
  | stopped
  deriving DecidableEq, Repr

/-- What the engine copies when it accepts a raster command, and its progress (10_state R71,
42_raster_fill R283). The command is held decoded; `encode` gives the accepted CMD word back. -/
structure Job where
  /-- the accepted command -/
  cmd : Instr
  a0 : Word
  a1 : Word
  a2 : Word
  a3 : Word
  key : Pixel
  /-- the number of pixel operations already performed -/
  k : Nat
  /-- the pixel the current operation has read and not yet used (42_raster_fill R284: the read of a
  CopyS or RotS is an event of its own, and GetPix has a value the command uses; log entry 4) -/
  held : Option Pixel
  deriving DecidableEq, Repr

/-- ENG (10_state R71). -/
inductive Engine where
  | idle
  /-- the framebuffer zero-fill, `n` pixels already cleared -/
  | clearing (n : Nat)
  /-- a raster command executing -/
  | exec (job : Job)
  deriving DecidableEq, Repr

/-- The output tuple of one pixel period (41_timing_generator R235); PCLK is R237's. -/
structure PanelOut where
  hs : Bool
  vs : Bool
  de : Bool
  d : Pixel
  deriving DecidableEq, Repr

/-- The access sizes of 20_memory R100. -/
inductive Size where
  | b1
  | b2
  | b4
  deriving DecidableEq, Repr

/-- A host bus transaction (20_memory R100). -/
inductive Txn where
  | read (a : BitVec 22) (n : Size)
  | write (a : BitVec 22) (n : Size) (v : Word)
  deriving DecidableEq, Repr

/-- One operation of a host script (00_scope R13). -/
inductive HostOp where
  | txn (t : Txn)
  /-- `wait_idle`: read STATUS until BUSY = 0 and CLEARING = 0 -/
  | waitIdle
  deriving DecidableEq, Repr

/-- The bytes of one memory that were written since its content last became unspecified, addresses
strictly rising. An unlisted byte has no value of its own: it reads as a draw (log entry 5). -/
abbrev Memory := List Host.Cell

/-- The canonical form: addresses strictly rising. -/
abbrev Memory.wf (m : Memory) : Prop := m.Pairwise (fun c c' => c.1 < c'.1)

/-- The block and what stands around it. -/
structure State where
  /-- the build (00_scope R7); no step changes it -/
  build : Params
  /-- STATUS.STATE (10_state R38) -/
  drv : DriverState
  /-- ERR (10_state R39) -/
  err : BitVec 6
  /-- RES.WIDTH, `W` (10_state R40) -/
  resW : BitVec 16
  /-- RES.HEIGHT, `H` (10_state R40) -/
  resH : BitVec 16
  /-- GPIO (10_state R42) -/
  gpio : BitVec 5
  /-- the timing registers (10_state R44) -/
  hsw : BitVec 16
  hbp : BitVec 16
  hfp : BitVec 16
  vsw : BitVec 16
  vbp : BitVec 16
  vfp : BitVec 16
  /-- PCLKDIV (10_state R46) -/
  pclkdiv : BitVec 16
  /-- POL (10_state R47) -/
  pol : BitVec 4
  /-- the operand registers (10_state R60) -/
  arg0 : Word
  arg1 : Word
  arg2 : Word
  arg3 : Word
  /-- the result registers (10_state R61) -/
  result0 : Word
  result1 : Word
  /-- KEY (10_state R62) -/
  key : Pixel
  /-- COLOR_IN (10_state R63) -/
  colorIn : BitVec 24
  /-- PIN[0..24] (10_state R65) -/
  pin : Vector Byte 25
  /-- ROUTE[0..24], the routing in force (10_state R72) -/
  route : Vector Byte 25
  /-- the scan position (10_state R70) -/
  hcnt : Nat
  vcnt : Nat
  /-- ENG (10_state R71) -/
  eng : Engine
  /-- FB, by byte offset (10_state R73) -/
  fb : Memory
  /-- SCR, by byte offset (10_state R74) -/
  scr : Memory
  /-- MODEL'S OWN: which draw FB's unwritten bytes take (log entry 5) -/
  fbEpoch : Nat
  /-- MODEL'S OWN: which draw SCR's unwritten bytes take (log entry 5) -/
  scrEpoch : Nat
  /-- MODEL'S OWN: the draws of SIGSTATE's PCLK bit taken so far (log entry 6) -/
  pclkDraws : Nat
  /-- MODEL'S OWN: the free turns taken so far (log entry 2) -/
  turnDraws : Nat
  /-- MODEL'S OWN: the value the last bus read returned (20_memory R100; log entry 7) -/
  rdata : Word
  /-- MODEL'S OWN: the output tuples emitted so far, newest first (70_reset_and_hazards R542; log
  entry 7) -/
  emitted : List PanelOut
  /-- MODEL'S OWN: the output tuple the last scan step of this run of the scan put on the panel signals,
  where it stays for its pixel period (00_scope R12 emit, 41_timing_generator R237, R240); none where
  the scan has not stepped since RUN or is not running (log entry 13) -/
  panel : Option PanelOut
  /-- MODEL'S OWN: what the host will issue, in issue order (log entry 1) -/
  hostQueue : List HostOp
  /-- MODEL'S OWN: which agents move next, in order (log entry 2) -/
  turns : List Agent
  deriving DecidableEq, Repr

/-- No step faults: 60_exceptions R460 says the block never traps or halts, and
93_implementation_defined that it has no behaviour treated as fault or stuck. So the type of fault
reasons is empty. -/
inductive Fault where
  deriving DecidableEq, Repr

/-- Why a step has no meaning. -/
inductive Refusal where
  /-- raised only by an arm of `exec` whose instruction has no meaning yet; no arm is left so. Safe:
  the machine stops where the hardware goes on. -/
  | notModelled (mnemonic : String)
  deriving DecidableEq, Repr

/-- The state after reset of a build `b` (70_reset_and_hazards R501, launch premise `clean_reset` of
R541), nothing queued. FB and SCR list nothing: every byte is a draw (R504). -/
def State.resetOf (b : Params) : State where
  build := b
  drv := .uninit
  err := 0
  resW := 0
  resH := 0
  gpio := 0x09
  hsw := b.defHsw
  hbp := b.defHbp
  hfp := b.defHfp
  vsw := b.defVsw
  vbp := b.defVbp
  vfp := b.defVfp
  pclkdiv := b.defPclkdiv
  pol := 0x4
  arg0 := 0
  arg1 := 0
  arg2 := 0
  arg3 := 0
  result0 := 0
  result1 := 0
  key := 0
  colorIn := 0
  pin := Vector.replicate 25 0xFF
  route := Vector.replicate 25 0xFF
  hcnt := 0
  vcnt := 0
  eng := .idle
  fb := []
  scr := []
  fbEpoch := 0
  scrEpoch := 0
  pclkDraws := 0
  turnDraws := 0
  rdata := 0
  emitted := []
  panel := none
  hostQueue := []
  turns := []

/-- The state after reset of the reference build (00_scope R7). -/
def State.reset : State := State.resetOf Params.reference

end Sys2Proof.Machine
end

