-- ==== Sys2Proof/Machine/Flags.lean ====
section
/-! DEFINITION. The block has no arithmetic flags (10_state R75). Its flags are the sticky ERR bits
(10_state R39) and the status bits BUSY and CLEARING (10_state R38). -/

namespace Sys2Proof.Machine

/-- The ERR flags (10_state R39). -/
inductive ErrFlag where
  | state
  | cfg
  | arg
  | busy
  | op
  | addr
  deriving DecidableEq, Repr

/-- The bit of an ERR flag (10_state R39). -/
def ErrFlag.bit : ErrFlag → Nat
  | .state => 0
  | .cfg => 1
  | .arg => 2
  | .busy => 3
  | .op => 4
  | .addr => 5

/-- ERR with one flag set, the others kept: the flags are sticky (60_exceptions R463). -/
def errSet (f : ErrFlag) (err : BitVec 6) : BitVec 6 := err ||| BitVec.twoPow 6 f.bit

/-- ERR after a write of `v`: each flag whose bit of `v` is 1 is cleared (10_state R39). -/
def errClear (v : Word) (err : BitVec 6) : BitVec 6 := err &&& ~~~(v.extractLsb' 0 6)

/-- STATUS.STATE's code (10_state R38). -/
def DriverState.code : DriverState → BitVec 2
  | .uninit => 0
  | .initializing => 1
  | .running => 2
  | .stopped => 3

/-- STATUS.BUSY: 1 iff ENG is Exec (10_state R38, R71). -/
def Engine.busy : Engine → Bool
  | .exec _ => true
  | _ => false

/-- STATUS.CLEARING: 1 iff ENG is Clearing (10_state R38, R71). -/
def Engine.isClearing : Engine → Bool
  | .clearing _ => true
  | _ => false

/-- The STATUS register (10_state R38). Log entry 18, DESIGN CHOICE: neither STATUS nor ERR has a bit for a
frame boundary, as the field lists of R38 and R39 and 60_exceptions R472 have it, although 60_exceptions
R469 names it among what polling observes. -/
def State.status (s : State) : Word :=
  (0 : BitVec 28) ++ BitVec.ofBool s.eng.isClearing ++ BitVec.ofBool s.eng.busy ++ s.drv.code

end Sys2Proof.Machine
end

