-- ==== Sys2Proof/Machine/Operands.lean ====
section
/-! DEFINITION. The operand formats of 30_encoding R151, read from the engine's copies. All geometry
is on mathematical integers (00_scope R11). -/

namespace Sys2Proof.Machine

/-- Bits 15:0 and 31:16 of an operand register. -/
def lowHalf (w : Word) : BitVec 16 := w.extractLsb' 0 16
def highHalf (w : Word) : BitVec 16 := w.extractLsb' 16 16

/-- `s16(f)` and `u16(f)` (00_scope R11). -/
def s16 (f : BitVec 16) : Int := f.toInt
def u16 (f : BitVec 16) : Nat := f.toNat

/-- XY format in ARG0: the point (x, y). -/
def Job.x (j : Job) : Int := s16 (lowHalf j.a0)
def Job.y (j : Job) : Int := s16 (highHalf j.a0)

/-- WH format in ARG1 (rectangles): the size (w, h). -/
def Job.w (j : Job) : Int := s16 (lowHalf j.a1)
def Job.h (j : Job) : Int := s16 (highHalf j.a1)

/-- LEN format in ARG1: bits 31:16 are ignored. -/
def Job.len (j : Job) : Int := s16 (lowHalf j.a1)

/-- XY format in ARG1 (LINE): the end point (x1, y1). -/
def Job.x1 (j : Job) : Int := s16 (lowHalf j.a1)
def Job.y1 (j : Job) : Int := s16 (highHalf j.a1)

/-- UWH format in ARG1 (sprites, rotation buffers). -/
def Job.uw (j : Job) : Nat := u16 (lowHalf j.a1)
def Job.uh (j : Job) : Nat := u16 (highHalf j.a1)

/-- OFF format in ARG2 and ARG3: byte offsets into SCR. -/
def Job.src (j : Job) : Nat := j.a2.toNat
def Job.dst (j : Job) : Nat := j.a3.toNat

end Sys2Proof.Machine
end

