-- ==== Sys2Proof/Machine/Ops.lean ====
section
/-! DEFINITION. The named operations over memory and registers (00_scope R12), raising an error and
clearing it (60_exceptions R466, R467), and issuing a raster command (42_raster_fill R281, R283). -/

namespace Sys2Proof.Machine

/-- What a meaning answers. -/
abbrev Result := Host.Outcome State Fault Refusal

/-! ### Resolution -/

/-- `W` and `H` (10_state R41). -/
def State.width (s : State) : Nat := s.resW.toNat
def State.height (s : State) : Nat := s.resH.toNat

/-- The size of the Framebuffer Store in bytes, `2*W*H` (10_state R73). -/
def State.storeBytes (s : State) : Nat := 2 * s.width * s.height

/-! ### Errors: entry and return -/

/-- `raise Err(F)`: set the flag and end the operation with no other effect (00_scope R12,
60_exceptions R466). No state is saved and control stays with the host. -/
def State.raise (s : State) (f : ErrFlag) : State := { s with err := errSet f s.err }

/-- A rejected read returns 0 (60_exceptions R460). -/
def State.rejectRead (s : State) (f : ErrFlag) : State := { s.raise f with rdata := 0 }

/-- The host's write of `v` to ERR, the only way but reset that a flag is cleared (60_exceptions R467). -/
def State.clearErr (s : State) (v : Word) : State := { s with err := errClear v s.err }

/-! ### Memory -/

/-- The memory spaces of 00_scope R12. -/
inductive Space where
  | fb
  | scr
  deriving DecidableEq, Repr

/-- The byte written at an address, if any. -/
def Memory.get? : Memory → Nat → Option Byte
  | [], _ => none
  | c :: m, a => if c.1 = a then some c.2 else Memory.get? m a

/-- Write one byte, keeping the addresses strictly rising. -/
def Memory.set : Memory → Nat → Byte → Memory
  | [], a, v => [(a, v)]
  | c :: m, a, v =>
    if a < c.1 then (a, v) :: c :: m
    else if a = c.1 then (a, v) :: m
    else c :: Memory.set m a v

/-- Write bytes at rising addresses. -/
def Memory.setBytes (m : Memory) (off : Nat) : List Byte → Memory
  | [] => m
  | b :: bs => Memory.setBytes (m.set off b) (off + 1) bs

/-- The byte a memory space holds at an offset; a byte nothing has written is a draw
(70_reset_and_hazards R504, 45_lifecycle R415). -/
def State.byteAt (s : State) : Space → Nat → Byte
  | .fb, a => (s.fb.get? a).getD (Config.fbDraw s.fbEpoch a)
  | .scr, a => (s.scr.get? a).getD (Config.scrDraw s.scrEpoch a)

/-- `MemWrite(S, off, n, v)` for the n bytes `bs`, the least significant first (00_scope R12). -/
def State.memWrite (s : State) (sp : Space) (off : Nat) (bs : List Byte) : State :=
  match sp with
  | .fb => { s with fb := s.fb.setBytes off bs }
  | .scr => { s with scr := s.scr.setBytes off bs }

/-- The number of bytes of an access. -/
def Size.bytes : Size → Nat
  | .b1 => 1
  | .b2 => 2
  | .b4 => 4

/-- `zext_32(MemRead(S, off, n))`: little-endian (20_memory R103). -/
def State.memRead (s : State) (sp : Space) (off : Nat) : Size → Word
  | .b1 => (s.byteAt sp off).setWidth 32
  | .b2 => (s.byteAt sp (off + 1) ++ s.byteAt sp off).setWidth 32
  | .b4 => s.byteAt sp (off + 3) ++ s.byteAt sp (off + 2) ++ s.byteAt sp (off + 1) ++ s.byteAt sp off

/-- The bytes a write of size `n` stores: bits `8n-1:0` of the data (20_memory R103). -/
def Size.dataBytes (n : Size) (v : Word) : List Byte := (bytesOfWord v).take n.bytes

/-! ### Pixels -/

/-- The two bytes of a pixel: low byte then high byte (20_memory R102). -/
def pixelBytes (v : Pixel) : List Byte := [v.extractLsb' 0 8, v.extractLsb' 8 8]

/-- The pixel at a byte offset of a memory space, one atomic event (20_memory R110). -/
def State.pixelAt (s : State) (sp : Space) (off : Nat) : Pixel :=
  s.byteAt sp (off + 1) ++ s.byteAt sp off

/-- `inb(x, y)` (00_scope R12). -/
abbrev inb (W H : Nat) (x y : Int) : Prop := (0 ≤ x ∧ x < W) ∧ (0 ≤ y ∧ y < H)

/-- The byte offset `2*(y*W + x)` of pixel (x, y) (10_state R73). -/
def pixOff (W : Nat) (x y : Int) : Nat := (2 * (y * W + x)).toNat

/-- `Pix(x, y)` and `SetPix(x, y, v)` (00_scope R12). -/
def State.pix (s : State) (x y : Int) : Pixel := s.pixelAt .fb (pixOff s.width x y)
def State.setPix (s : State) (x y : Int) (v : Pixel) : State :=
  s.memWrite .fb (pixOff s.width x y) (pixelBytes v)

/-- `SPix` and `SetSPix` at the byte offset `off = base + 2*i` (00_scope R12). -/
def State.sPix (s : State) (off : Nat) : Pixel := s.pixelAt .scr off
def State.setSPix (s : State) (off : Nat) (v : Pixel) : State := s.memWrite .scr off (pixelBytes v)

/-! ### Pixel operations -/

/-- The operation kinds of 42_raster_fill R284. -/
inductive Op where
  /-- one FB pixel write -/
  | setPix (x y : Int) (v : Pixel)
  /-- one FB pixel read, whose value the command uses -/
  | getPix (x y : Int)
  /-- one SCR pixel read at byte offset `src`, then one FB pixel write, left out where the value read
  equals `skip` (44_raster_blit_rotate R360) -/
  | copyS (src : Nat) (x y : Int) (skip : Option Pixel)
  /-- one SCR pixel read at `src`, then one SCR pixel write at `dst` (44_raster_blit_rotate R375) -/
  | rotS (src dst : Nat)
  deriving DecidableEq, Repr

/-- The integers `lo, lo+1, .., hi-1` in order. -/
def intRange (lo hi : Int) : List Int := (List.range (hi - lo).toNat).map fun (n : Nat) => lo + (n : Int)

/-! ### Issue and acceptance of a raster command -/

/-- The copies acceptance takes: ARG0..ARG3 and KEY at this moment, no operation performed yet. -/
def State.jobOf (s : State) (i : Instr) : Job where
  cmd := i
  a0 := s.arg0
  a1 := s.arg1
  a2 := s.arg2
  a3 := s.arg3
  key := s.key
  k := 0
  held := none

/-- Acceptance (42_raster_fill R283): ENG becomes Exec, so STATUS.BUSY reads 1. -/
def State.accept (s : State) (i : Instr) : State := { s with eng := .exec (s.jobOf i) }

/-- The issue checks of 42_raster_fill R281 for a legal word: STATE, BUSY, ARG, in that order; then
acceptance. (Check 3, OP, concerns words that are no instruction: `State.writeCmd`.) -/
def State.issue (s : State) (i : Instr) (argsInvalid : Bool) : Result :=
  if s.drv ≠ .running then .next (s.raise .state)
  else if s.eng ≠ .idle then .next (s.raise .busy)
  else if argsInvalid = true then .next (s.raise .arg)
  else .next (s.accept i)

end Sys2Proof.Machine
end

