-- ==== Sys2Proof/Machine/Area.lean ====
section
/-! DEFINITION. The area commands: FILL, FILL_RECT, RECT, HLINE, VLINE (42_raster_fill section 2).
For each, the list of pixel operations its rule defines and its meaning as an issued command. -/

namespace Sys2Proof.Machine

/-- The pixels of `[x, x+w) x [y, y+h)` inside the buffer, row-major (42_raster_fill R288, R295). For
w or h of 0 or less there is none (R287). -/
def rectPixels (x y w h : Int) (W H : Nat) : List (Int × Int) :=
  if w ≤ 0 ∨ h ≤ 0 then []
  else
    (intRange (max y 0) (min (y + h) H)).flatMap fun yy =>
      (intRange (max x 0) (min (x + w) W)).map fun xx => (xx, yy)

/-- One pixel write per point, in order. -/
def paintOps (color : Pixel) (ps : List (Int × Int)) : List Op :=
  ps.map fun p => .setPix p.1 p.2 color

/-- FILL's operations (42_raster_fill R290). -/
def opsFill (color : Pixel) (W H : Nat) : List Op :=
  (intRange 0 H).flatMap fun y => (intRange 0 W).map fun x => .setPix x y color

/-- FILL_RECT's operations (42_raster_fill R295). -/
def opsFillRect (color : Pixel) (j : Job) (W H : Nat) : List Op :=
  paintOps color (rectPixels j.x j.y j.w j.h W H)

/-- A pixel on the first or last column or row of the rectangle (42_raster_fill R300). -/
abbrev onEdge (x y w h : Int) (p : Int × Int) : Prop :=
  p.1 = x ∨ p.1 = x + w - 1 ∨ p.2 = y ∨ p.2 = y + h - 1

/-- RECT's operations (42_raster_fill R300): the whole rectangle, or its outline clipped pixel by pixel. -/
def opsRect (filled : Bool) (color : Pixel) (j : Job) (W H : Nat) : List Op :=
  if filled then paintOps color (rectPixels j.x j.y j.w j.h W H)
  else paintOps color
    ((rectPixels j.x j.y j.w j.h W H).filter fun p => onEdge j.x j.y j.w j.h p)

/-- HLINE's operations (42_raster_fill R305): FILL_RECT(x, y, len, 1). -/
def opsHline (color : Pixel) (j : Job) (W H : Nat) : List Op :=
  paintOps color (rectPixels j.x j.y j.len 1 W H)

/-- VLINE's operations (42_raster_fill R310): FILL_RECT(x, y, 1, len). -/
def opsVline (color : Pixel) (j : Job) (W H : Nat) : List Op :=
  paintOps color (rectPixels j.x j.y 1 j.len W H)

/-- FILL (42_raster_fill R281, R290). -/
def execFill (color : Pixel) (s : State) : Result := s.issue (.fill color) false

/-- FILL_RECT (42_raster_fill R281, R295). -/
def execFillRect (color : Pixel) (s : State) : Result := s.issue (.fillRect color) false

/-- RECT (42_raster_fill R281, R300). -/
def execRect (filled : Bool) (color : Pixel) (s : State) : Result :=
  s.issue (.rect filled color) false

/-- HLINE (42_raster_fill R281, R305). -/
def execHline (color : Pixel) (s : State) : Result := s.issue (.hline color) false

/-- VLINE (42_raster_fill R281, R310). -/
def execVline (color : Pixel) (s : State) : Result := s.issue (.vline color) false

end Sys2Proof.Machine
end

