-- ==== Sys2Proof/Machine/BlitRotate.lean ====
section
/-! DEFINITION. BLIT and ROTATE (44_raster_blit_rotate). -/

namespace Sys2Proof.Machine

/-! ### BLIT -/

/-- BLIT's operations (44_raster_blit_rotate R360): the sprite's pixels that land inside the buffer,
row-major in the sprite; K = 1 skips those equal to the KEY copy. -/
def opsBlit (keyed : Bool) (j : Job) (W H : Nat) : List Op :=
  (List.range j.uh).flatMap fun (r : Nat) =>
    (List.range j.uw).filterMap fun (i : Nat) =>
      if inb W H (j.x + i) (j.y + r) then
        some (Op.copyS (j.src + 2 * (r * j.uw + i)) (j.x + i) (j.y + r)
          (if keyed then some j.key else none))
      else none

/-- BLIT's argument check (44_raster_blit_rotate R361), on the whole sprite. -/
def blitArgsInvalid (j : Job) (scrBytes : Nat) : Bool :=
  decide (j.src % 2 = 1 ∨ j.src + 2 * j.uw * j.uh > scrBytes)

/-- BLIT (42_raster_fill R281, 44_raster_blit_rotate R360, R361). -/
def execBlit (keyed : Bool) (imm : BitVec 16) (s : State) : Result :=
  s.issue (.blit keyed imm) (blitArgsInvalid (s.jobOf (.blit keyed imm)) s.build.scrBytes)

/-! ### ROTATE -/

/-- The quarter turns swap width and height (44_raster_blit_rotate R375). -/
def swapsSize (angle : BitVec 16) : Bool := angle == 90 || angle == 270

/-- `nw` and `nh` (44_raster_blit_rotate R375). -/
def newW (angle : BitVec 16) (w h : Nat) : Nat := if swapsSize angle then h else w
def newH (angle : BitVec 16) (w h : Nat) : Nat := if swapsSize angle then w else h

/-- The source pixel (sx, sy) of destination pixel (xp, yp): clockwise as seen on screen
(44_raster_blit_rotate R375). An accepted ROTATE has one of the four angles (R376). -/
def rotSource (angle : BitVec 16) (w h xp yp : Nat) : Nat × Nat :=
  if angle = 90 then (yp, h - 1 - xp)
  else if angle = 180 then (w - 1 - xp, h - 1 - yp)
  else if angle = 270 then (w - 1 - yp, xp)
  else (xp, yp)

/-- ROTATE's operations (44_raster_blit_rotate R375), row-major in the destination. -/
def opsRotate (angle : BitVec 16) (j : Job) : List Op :=
  let w := j.uw
  let h := j.uh
  let nw := newW angle w h
  (List.range (newH angle w h)).flatMap fun yp =>
    (List.range nw).map fun xp =>
      let p := rotSource angle w h xp yp
      .rotS (j.src + 2 * (p.2 * w + p.1)) (j.dst + 2 * (yp * nw + xp))

/-- ROTATE's argument checks (44_raster_blit_rotate R376). -/
def rotateArgsInvalid (angle : BitVec 16) (j : Job) (scrBytes : Nat) : Bool :=
  let n := 2 * j.uw * j.uh
  decide (validAngle angle = false ∨
    (j.src % 2 = 1 ∨ j.dst % 2 = 1) ∨
    (j.src + n > scrBytes ∨ j.dst + n > scrBytes) ∨
    (j.uw * j.uh > 0 ∧ j.src < j.dst + n ∧ j.dst < j.src + n))

/-- ROTATE's result: new_w in bits 15:0, new_h in bits 31:16 (44_raster_blit_rotate R380). -/
def rotateResult (angle : BitVec 16) (j : Job) : Word :=
  BitVec.ofNat 16 (newH angle j.uw j.uh) ++ BitVec.ofNat 16 (newW angle j.uw j.uh)

/-- ROTATE (42_raster_fill R281, 44_raster_blit_rotate R375, R376). -/
def execRotate (angle : BitVec 16) (s : State) : Result :=
  s.issue (.rotate angle) (rotateArgsInvalid angle (s.jobOf (.rotate angle)) s.build.scrBytes)

end Sys2Proof.Machine
end

