-- ==== Sys2Proof/Machine/Lifecycle.lean ====
section
/-! DEFINITION. The CTRL actions INIT, RUN and DEINIT (45_lifecycle). -/

namespace Sys2Proof.Machine

/-- The value of an unassigned pin (10_state R66). -/
def unassigned : Byte := 0xFF

/-- The signal that may stay unassigned: BL (10_state R65, 45_lifecycle R401). -/
def sigBL : Fin 25 := 4

/-- A required signal has no pad (45_lifecycle R401). -/
def pinMissing (pin : Vector Byte 25) : Bool :=
  (List.finRange 25).any fun i => decide (i ≠ sigBL ∧ pin[i] = unassigned)

/-- Two signals share a pad (45_lifecycle R401). -/
def pinShared (pin : Vector Byte 25) : Bool :=
  (List.finRange 25).any fun i =>
    (List.finRange 25).any fun j => decide (i ≠ j ∧ pin[i] = pin[j] ∧ pin[i] ≠ unassigned)

/-- `config_invalid()` (45_lifecycle R401). -/
def State.configInvalid (s : State) : Bool :=
  decide (s.resW = 0 ∧ s.resH = 0) || pinMissing s.pin || pinShared s.pin

/-- INIT (45_lifecycle R400): the routing is latched and the clear starts. -/
def execInit (_rsv : BitVec 29) (s : State) : Result :=
  if ¬(s.drv = .uninit ∨ s.drv = .stopped) then .next (s.raise .state)
  else if s.configInvalid = true then .next (s.raise .cfg)
  else .next { s with route := s.pin, drv := .initializing, eng := .clearing 0 }

/-- RUN (45_lifecycle R410): the scan starts at (0, 0); it has emitted nothing yet. -/
def execRun (_rsv : BitVec 29) (s : State) : Result :=
  if s.drv ≠ .initializing then .next (s.raise .state)
  else if s.eng ≠ .idle then .next (s.raise .busy)
  else .next { s with drv := .running, hcnt := 0, vcnt := 0, panel := none }

/-- FB content becomes unspecified: nothing of it stays written, and its bytes take a new draw
(45_lifecycle R415, 93_implementation_defined U2). -/
def State.releaseFb (s : State) : State := { s with fb := [], fbEpoch := s.fbEpoch + 1 }

/-- DEINIT (45_lifecycle R415): a clear in progress is abandoned, the scan stops, cutting the pixel
period in progress short (41_timing_generator R243), the framebuffer is released. -/
def execDeinit (_rsv : BitVec 29) (s : State) : Result :=
  if ¬(s.drv = .initializing ∨ s.drv = .running) then .next (s.raise .state)
  else if s.eng.busy = true then .next (s.raise .busy)
  else .next { s.releaseFb with drv := .stopped, eng := .idle, panel := none }

end Sys2Proof.Machine
end

