-- ==== Sys2Proof/Machine/LinePixel.lean ====
section
/-! DEFINITION. LINE, PIXEL_SET, PIXEL_GET (43_raster_line_pixel). -/

namespace Sys2Proof.Machine

/-- The fixed quantities of a line: the end point, dx, dy, sx, sy (43_raster_line_pixel R330). -/
structure LineSetup where
  x1 : Int
  y1 : Int
  dx : Int
  dy : Int
  sx : Int
  sy : Int
  deriving DecidableEq, Repr

/-- dx, sx, dy, sy from the end points (43_raster_line_pixel R330). -/
def lineSetup (x0 y0 x1 y1 : Int) : LineSetup where
  x1 := x1
  y1 := y1
  dx := (x1 - x0).natAbs
  dy := -((y1 - y0).natAbs : Int)
  sx := if x0 < x1 then 1 else -1
  sy := if y0 < y1 then 1 else -1

/-- The loop of 43_raster_line_pixel R330 from the point (px, py) with error term `err`, at most
`fuel` further points after this one. -/
def lineFrom (l : LineSetup) : (fuel : Nat) → (err px py : Int) → List (Int × Int)
  | 0, _, px, py => [(px, py)]
  | fuel + 1, err, px, py =>
    (px, py) ::
      if px = l.x1 ∧ py = l.y1 then []
      else
        let e2 := 2 * err
        let stepX : Bool := decide (e2 ≥ l.dy)
        let stepY : Bool := decide (e2 ≤ l.dx)
        lineFrom l fuel
          (err + (if stepX then l.dy else 0) + (if stepY then l.dx else 0))
          (if stepX then px + l.sx else px)
          (if stepY then py + l.sy else py)

/-- `pts` of 43_raster_line_pixel R330, from the unclipped end points. A line has at most 65536 points
(42_raster_fill R285), so 65535 further points are enough. -/
def linePoints (x0 y0 x1 y1 : Int) : List (Int × Int) :=
  let l := lineSetup x0 y0 x1 y1
  lineFrom l 65535 (l.dx + l.dy) x0 y0

/-- LINE's operations: the points inside the buffer, in order (43_raster_line_pixel R330). -/
def opsLine (color : Pixel) (j : Job) (W H : Nat) : List Op :=
  ((linePoints j.x j.y j.x1 j.y1).filter fun p => inb W H p.1 p.2).map fun p =>
    .setPix p.1 p.2 color

/-- PIXEL_SET's operations (43_raster_line_pixel R340). -/
def opsPixelSet (color : Pixel) (j : Job) (W H : Nat) : List Op :=
  if inb W H j.x j.y then [.setPix j.x j.y color] else []

/-- PIXEL_GET's operations (43_raster_line_pixel R345). -/
def opsPixelGet (j : Job) (W H : Nat) : List Op :=
  if inb W H j.x j.y then [.getPix j.x j.y] else []

/-- PIXEL_GET's result: the pixel read, zero-extended, or the sentinel where there was no pixel to
read (43_raster_line_pixel R345). -/
def pixelGetResult (held : Option Pixel) : Word :=
  match held with
  | some v => v.setWidth 32
  | none => 0xFFFFFFFF

/-- LINE (42_raster_fill R281, 43_raster_line_pixel R330). -/
def execLine (color : Pixel) (s : State) : Result := s.issue (.line color) false

/-- PIXEL_SET (42_raster_fill R281, 43_raster_line_pixel R340). -/
def execPixelSet (color : Pixel) (s : State) : Result := s.issue (.pixelSet color) false

/-- PIXEL_GET (42_raster_fill R281, 43_raster_line_pixel R345). -/
def execPixelGet (imm : BitVec 16) (s : State) : Result := s.issue (.pixelGet imm) false

end Sys2Proof.Machine
end

