-- ==== Sys2Proof/Machine/Dispatch.lean ====
section
/-! DEFINITION. One arm per instruction: what the write of its word to its register does
(42_raster_fill R281, 45_lifecycle R399). The engine then executes an accepted command turn by turn. -/

namespace Sys2Proof.Machine

def exec (i : Instr) (s : State) : Host.Outcome State Fault Refusal :=
  match i with
  | .fill color => Sys2Proof.Machine.execFill color s
  | .fillRect color => Sys2Proof.Machine.execFillRect color s
  | .rect filled color => Sys2Proof.Machine.execRect filled color s
  | .hline color => Sys2Proof.Machine.execHline color s
  | .vline color => Sys2Proof.Machine.execVline color s
  | .line color => Sys2Proof.Machine.execLine color s
  | .pixelSet color => Sys2Proof.Machine.execPixelSet color s
  | .pixelGet imm => Sys2Proof.Machine.execPixelGet imm s
  | .blit keyed imm => Sys2Proof.Machine.execBlit keyed imm s
  | .rotate angle => Sys2Proof.Machine.execRotate angle s
  | .init rsv => Sys2Proof.Machine.execInit rsv s
  | .run rsv => Sys2Proof.Machine.execRun rsv s
  | .deinit rsv => Sys2Proof.Machine.execDeinit rsv s

end Sys2Proof.Machine
end

