-- ==== Sys2Proof/Machine/Engine.lean ====
section
/-! DEFINITION. The engine agent (42_raster_fill R284, 45_lifecycle R405): one atomic memory event
per turn. -/

namespace Sys2Proof.Machine

/-- `ops(c, a0..a3, key)` of the executing command (42_raster_fill R284), W and H being constant while
it executes (10_state R41). A CTRL action is no raster command and never executes in the engine. -/
def Job.ops (j : Job) (W H : Nat) : List Op :=
  match j.cmd with
  | .fill color => opsFill color W H
  | .fillRect color => opsFillRect color j W H
  | .rect filled color => opsRect filled color j W H
  | .hline color => opsHline color j W H
  | .vline color => opsVline color j W H
  | .line color => opsLine color j W H
  | .pixelSet color => opsPixelSet color j W H
  | .pixelGet _ => opsPixelGet j W H
  | .blit keyed _ => opsBlit keyed j W H
  | .rotate angle => opsRotate angle j
  | .init _ | .run _ | .deinit _ => []

/-- The operation is done: progress k becomes k + 1 (42_raster_fill R284). -/
def State.advance (s : State) (j : Job) : State :=
  { s with eng := .exec { j with k := j.k + 1, held := none } }

/-- The operation has read `v` and still has to write it. -/
def State.hold (s : State) (j : Job) (v : Pixel) : State :=
  { s with eng := .exec { j with held := some v } }

/-- One event of the operation at the job's progress (42_raster_fill R284, 20_memory R110). -/
def State.perform (s : State) (j : Job) : Op → State
  | .setPix x y v => (s.setPix x y v).advance j
  | .getPix x y => { s with eng := .exec { j with k := j.k + 1, held := some (s.pix x y) } }
  | .copyS src x y skip =>
    match j.held with
    | some v => (s.setPix x y v).advance j
    | none =>
      let v := s.sPix src
      if skip = some v then s.advance j else s.hold j v
  | .rotS src dst =>
    match j.held with
    | some v => (s.setSPix dst v).advance j
    | none => s.hold j (s.sPix src)

/-- Completion (42_raster_fill R284): the command's result register, if any, and ENG becomes Idle. -/
def State.finish (s : State) (j : Job) : State :=
  match j.cmd with
  | .pixelGet _ => { s with result0 := pixelGetResult j.held, eng := .idle }
  | .rotate angle => { s with result1 := rotateResult angle j, eng := .idle }
  | _ => { s with eng := .idle }

/-- One turn of the clear (45_lifecycle R405). -/
def State.clearTurn (s : State) (n : Nat) : State :=
  if n < s.width * s.height then
    { s.setPix ((n % s.width : Nat) : Int) ((n / s.width : Nat) : Int) 0 with
      eng := .clearing (n + 1) }
  else { s with eng := .idle }

/-- One turn of an executing command (42_raster_fill R284). -/
def State.execTurn (s : State) (j : Job) : State :=
  match (j.ops s.width s.height)[j.k]? with
  | some op => s.perform j op
  | none => s.finish j

/-- One turn of the engine. -/
def State.engineTurn (s : State) : State :=
  match s.eng with
  | .idle => s
  | .clearing n => s.clearTurn n
  | .exec j => s.execTurn j

/-- `n` turns of the engine with no other agent between them. -/
def State.engineRun : Nat → State → State
  | 0, s => s
  | n + 1, s => State.engineRun n s.engineTurn

end Sys2Proof.Machine
end

