-- ==== Sys2Proof/Machine/Color.lean ====
section
/-! DEFINITION. The rgb565 helper (46_color). -/

namespace Sys2Proof.Machine

/-- The rgb565 conversion by truncation (46_color R440), for COLOR_IN = R8, G8, B8 high to low. -/
def rgb565 (c : BitVec 24) : Pixel :=
  let r : Pixel := (c.extractLsb' 16 8).setWidth 16
  let g : Pixel := (c.extractLsb' 8 8).setWidth 16
  let b : Pixel := (c.extractLsb' 0 8).setWidth 16
  ((r &&& 0xF8) <<< 8) ||| ((g &&& 0xFC) <<< 3) ||| (b >>> 3)

/-- COLOR_OUT, a function of COLOR_IN (10_state R63, 46_color R440). -/
def State.colorOut (s : State) : Word := (rgb565 s.colorIn).setWidth 32

end Sys2Proof.Machine
end

