-- ==== Sys2Proof/Machine/Scan.lean ====
section
/-! DEFINITION. The Timing Generator, the framebuffer reader and pixel-stream multiplexer
(41_timing_generator) and the pads they drive (40_pins). -/

namespace Sys2Proof.Machine

/-! ### Geometry (41_timing_generator R231) -/

def State.ha0 (s : State) : Nat := s.hsw.toNat + s.hbp.toNat
def State.htotal (s : State) : Nat := s.hsw.toNat + s.hbp.toNat + s.width + s.hfp.toNat
def State.va0 (s : State) : Nat := s.vsw.toNat + s.vbp.toNat
def State.vtotal (s : State) : Nat := s.vsw.toNat + s.vbp.toNat + s.height + s.vfp.toNat

/-! ### Polarities (10_state R47) -/

def State.hspol (s : State) : Bool := s.pol.getLsbD 0
def State.vspol (s : State) : Bool := s.pol.getLsbD 1
def State.depol (s : State) : Bool := s.pol.getLsbD 2
def State.pclkpol (s : State) : Bool := s.pol.getLsbD 3

/-- The level of a signal: the POL bit while active, its complement while inactive (R238). -/
def polLevel (active pol : Bool) : Bool := if active then pol else !pol

/-! ### The scan step (41_timing_generator R235, R236) -/

def State.hsActive (s : State) : Bool := decide (s.hcnt < s.hsw.toNat)
def State.vsActive (s : State) : Bool := decide (s.vcnt < s.vsw.toNat)
def State.deActive (s : State) : Bool :=
  decide ((s.ha0 ≤ s.hcnt ∧ s.hcnt < s.ha0 + s.width) ∧
    (s.va0 ≤ s.vcnt ∧ s.vcnt < s.va0 + s.height))

/-- `d`: the pixel of an active period, one atomic scan read; 0 elsewhere (R235, R239). -/
def State.scanData (s : State) : Pixel :=
  if s.deActive then s.pix ((s.hcnt - s.ha0 : Nat) : Int) ((s.vcnt - s.va0 : Nat) : Int) else 0

/-- The output tuple of the pixel period at the current position (R235). -/
def State.periodOut (s : State) : PanelOut where
  hs := polLevel s.hsActive s.hspol
  vs := polLevel s.vsActive s.vspol
  de := polLevel s.deActive s.depol
  d := s.scanData

/-- The position after one step (R236). -/
def State.nextPos (s : State) : Nat × Nat :=
  if s.hcnt + 1 = s.htotal then
    (0, if s.vcnt + 1 = s.vtotal then 0 else s.vcnt + 1)
  else (s.hcnt + 1, s.vcnt)

/-- `emit(o)`: the tuple is on the panel signals for one pixel period, until the next is emitted
(00_scope R12, 41_timing_generator R237), and part of what was put out (70_reset_and_hazards R542). -/
def State.emit (s : State) (o : PanelOut) : State :=
  { s with emitted := o :: s.emitted, panel := some o }

/-- One turn of the scan: one pixel period while RUNNING, nothing in another state (R235). -/
def State.scanTurn (s : State) : State :=
  if s.drv = .running then
    { s.emit s.periodOut with
      hcnt := s.nextPos.1
      vcnt := s.nextPos.2 }
  else s

/-- `n` turns of the scan with no other agent between them. -/
def State.scanRun : Nat → State → State
  | 0, s => s
  | n + 1, s => State.scanRun n s.scanTurn

/-! ### Signal levels -/

/-- The halves of a pixel period (R237). -/
inductive Half where
  | first
  | second
  deriving DecidableEq, Repr

/-- The idle levels of HS, VS, DE and D (R241). -/
def State.idleOut (s : State) : PanelOut where
  hs := !s.hspol
  vs := !s.vspol
  de := !s.depol
  d := 0

/-- The tuple of the current step's `emit` while RUNNING (R240): the one emitted last, held for its
period. Before the first step after RUN the current step is that of (0, 0), which lies in both sync
pulses and reads no FB, so its tuple is the same whenever it is emitted (R242; log entry 13). -/
def State.currentOut (s : State) : PanelOut := s.panel.getD s.periodOut

/-- HS, VS, DE and D as the pads see them: the current step's `emit` while RUNNING, else the idle
levels (R240). -/
def State.panelOut (s : State) : PanelOut := if s.drv = .running then s.currentOut else s.idleOut

/-- PCLK: PCLKPOL in the first half of a period, its complement in the second (R237); PCLKPOL while
the scan is stopped (R241). -/
def State.pclkLevel (s : State) (h : Half) : Bool :=
  if s.drv = .running ∧ h = .second then !s.pclkpol else s.pclkpol

/-- `level(i)` (40_pins R201): the GPIO bits, PCLK, HS, VS, DE, and data line D_k for i = 9 + k. -/
def State.level (s : State) (h : Half) (i : Fin 25) : Bool :=
  if i.val < 5 then s.gpio.getLsbD i.val
  else if i.val = 5 then s.pclkLevel h
  else if i.val = 6 then s.panelOut.hs
  else if i.val = 7 then s.panelOut.vs
  else if i.val = 8 then s.panelOut.de
  else s.panelOut.d.getLsbD (i.val - 9)

/-! ### Pads (40_pins) -/

/-- The signal routed to pad `p`; INIT lets no two signals share one (45_lifecycle R401). -/
def State.driver (s : State) (p : Nat) : Option (Fin 25) :=
  (List.finRange 25).find? fun i => decide (s.route[i].toNat = p)

/-- `PAD_OE[p]` for the pads `0 .. NPADS-1` (40_pins R201). -/
def State.padOE (s : State) (p : Nat) : Bool :=
  decide (p < s.build.npads) && decide (s.drv ≠ .uninit) && (s.driver p).isSome

/-- `PAD_OUT[p]` (40_pins R201, 41_timing_generator R245). The level of a pad that is not driven is
not the block's: a free value at every moment `t` of an observer. -/
def State.padOut (s : State) (t : Nat) (h : Half) (p : Nat) : Bool :=
  match s.driver p with
  | some i => if s.padOE p then s.level h i else Config.undrivenPad t p
  | none => Config.undrivenPad t p

/-- Whether signal i's level is on a pad (10_state R43). -/
def State.signalDriven (s : State) (i : Fin 25) : Bool :=
  decide (s.drv ≠ .uninit ∧ s.route[i] ≠ unassigned)

/-- One bit of SIGSTATE: the driven level, or 0 (10_state R43). -/
def State.sigBit (s : State) (h : Half) (i : Fin 25) : Bool := s.signalDriven i && s.level h i

/-- SIGSTATE read in half `h` of a pixel period (10_state R43, 40_pins R203). -/
def State.sigstate (s : State) (h : Half) : Word :=
  (BitVec.ofBoolListLE
    [s.sigBit h 0, s.sigBit h 1, s.sigBit h 2, s.sigBit h 3, s.sigBit h 4,
     s.sigBit h 5, s.sigBit h 6, s.sigBit h 7, s.sigBit h 8]).setWidth 32

/-! ### Derived timing (41_timing_generator R249); no step reads it -/

def State.halfPeriodClks (s : State) : Nat := s.pclkdiv.toNat + 1
def State.pixelPeriodClks (s : State) : Nat := 2 * s.halfPeriodClks
def State.framePeriods (s : State) : Nat := s.htotal * s.vtotal
def State.frameClks (s : State) : Nat := s.pixelPeriodClks * s.framePeriods

/-- `f_PCLK` for a block clock frequency `fClk`. -/
def State.pclkFreq (s : State) (fClk : ℚ) : ℚ := fClk / s.pixelPeriodClks

/-- The frame rate for a block clock frequency `fClk`. -/
def State.frameRate (s : State) (fClk : ℚ) : ℚ := fClk / s.frameClks

end Sys2Proof.Machine
end

