-- ==== Sys2Proof/Machine/Registers.lean ====
section
/-! DEFINITION. The register window: the map, the access classes, what a read returns
(10_state R35 to R66). -/

namespace Sys2Proof.Machine

/-- The registers of 10_state R35. -/
inductive Reg where
  | ctrl
  | status
  | err
  | res
  | gpio
  | sigstate
  | hsw
  | hbp
  | hfp
  | vsw
  | vbp
  | vfp
  | pclkdiv
  | pol
  | cmd
  | arg0
  | arg1
  | arg2
  | arg3
  | result0
  | result1
  | key
  | colorIn
  | colorOut
  | cap0
  | cap1
  | cap2
  | pin (i : Fin 25)
  deriving DecidableEq, Repr

/-- PIN[i] at 0x100 + 4*i (10_state R65). -/
def pinAt (off : Nat) : Option Reg :=
  if 0x100 ≤ off ∧ off % 4 = 0 then
    if h : (off - 0x100) / 4 < 25 then some (.pin ⟨(off - 0x100) / 4, h⟩) else none
  else none

/-- The register at an offset of the window; every other offset is reserved (10_state R35). -/
def regAt (off : Nat) : Option Reg :=
  match off with
  | 0x000 => some .ctrl
  | 0x004 => some .status
  | 0x008 => some .err
  | 0x00C => some .res
  | 0x010 => some .gpio
  | 0x014 => some .sigstate
  | 0x020 => some .hsw
  | 0x024 => some .hbp
  | 0x028 => some .hfp
  | 0x02C => some .vsw
  | 0x030 => some .vbp
  | 0x034 => some .vfp
  | 0x038 => some .pclkdiv
  | 0x03C => some .pol
  | 0x040 => some .cmd
  | 0x044 => some .arg0
  | 0x048 => some .arg1
  | 0x04C => some .arg2
  | 0x050 => some .arg3
  | 0x054 => some .result0
  | 0x058 => some .result1
  | 0x05C => some .key
  | 0x060 => some .colorIn
  | 0x064 => some .colorOut
  | 0x068 => some .cap0
  | 0x06C => some .cap1
  | 0x070 => some .cap2
  | _ => pinAt off

/-- The offset of a register (10_state R35). -/
def Reg.offset : Reg → Nat
  | .ctrl => 0x000
  | .status => 0x004
  | .err => 0x008
  | .res => 0x00C
  | .gpio => 0x010
  | .sigstate => 0x014
  | .hsw => 0x020
  | .hbp => 0x024
  | .hfp => 0x028
  | .vsw => 0x02C
  | .vbp => 0x030
  | .vfp => 0x034
  | .pclkdiv => 0x038
  | .pol => 0x03C
  | .cmd => 0x040
  | .arg0 => 0x044
  | .arg1 => 0x048
  | .arg2 => 0x04C
  | .arg3 => 0x050
  | .result0 => 0x054
  | .result1 => 0x058
  | .key => 0x05C
  | .colorIn => 0x060
  | .colorOut => 0x064
  | .cap0 => 0x068
  | .cap1 => 0x06C
  | .cap2 => 0x070
  | .pin i => 0x100 + 4 * i.val

/-- The read-only registers (10_state R36(c)). -/
def Reg.readOnly : Reg → Bool
  | .status | .sigstate | .result0 | .result1 | .colorOut | .cap0 | .cap1 | .cap2 => true
  | _ => false

/-- The lock classes of 10_state R36(f). -/
inductive Lock where
  | free
  | config
  | run
  deriving DecidableEq, Repr

/-- A register's lock class (10_state R35). -/
def Reg.lock : Reg → Lock
  | .res | .pin _ => .config
  | .hsw | .hbp | .hfp | .vsw | .vbp | .vfp | .pclkdiv | .pol => .run
  | _ => .free

/-- Whether a lock class refuses writes in a state (10_state R36(f)). -/
def Lock.locked : Lock → DriverState → Bool
  | .free, _ => false
  | .config, d => !(d == .uninit || d == .stopped)
  | .run, d => d == .running

/-- The half of the pixel period in which the next SIGSTATE read falls: a draw (10_state R43, U6). -/
def State.drawHalf (s : State) : Half := if Config.pclkDraw s.pclkDraws then .second else .first

/-- What an accepted read of a register returns; CTRL and CMD read 0 (10_state R36(e)), reserved bits
read 0 (R36(d)). -/
def State.regValue (s : State) : Reg → Word
  | .ctrl => 0
  | .status => s.status
  | .err => s.err.setWidth 32
  | .res => s.resH ++ s.resW
  | .gpio => s.gpio.setWidth 32
  | .sigstate => s.sigstate s.drawHalf
  | .hsw => s.hsw.setWidth 32
  | .hbp => s.hbp.setWidth 32
  | .hfp => s.hfp.setWidth 32
  | .vsw => s.vsw.setWidth 32
  | .vbp => s.vbp.setWidth 32
  | .vfp => s.vfp.setWidth 32
  | .pclkdiv => s.pclkdiv.setWidth 32
  | .pol => s.pol.setWidth 32
  | .cmd => 0
  | .arg0 => s.arg0
  | .arg1 => s.arg1
  | .arg2 => s.arg2
  | .arg3 => s.arg3
  | .result0 => s.result0
  | .result1 => s.result1
  | .key => s.key.setWidth 32
  | .colorIn => s.colorIn.setWidth 32
  | .colorOut => s.colorOut
  | .cap0 => BitVec.ofNat 32 s.build.fbBytes
  | .cap1 => BitVec.ofNat 32 s.build.scrBytes
  | .cap2 => (BitVec.ofNat 8 s.build.npads).setWidth 32
  | .pin i => s.pin[i].setWidth 32

/-- The draws after a read: a read of SIGSTATE while RUNNING takes one (10_state R43). -/
def State.drawsAfter (s : State) (r : Reg) : Nat :=
  if r = .sigstate ∧ s.drv = .running then s.pclkDraws + 1 else s.pclkDraws

/-- An accepted read of a register: its value goes to the host; nothing of the block changes
(20_memory R111). -/
def State.readReg (s : State) (r : Reg) : State :=
  { s with rdata := s.regValue r, pclkDraws := s.drawsAfter r }

end Sys2Proof.Machine
end

