-- ==== Sys2Proof/Machine/Bus.lean ====
section
/-! DEFINITION. The host's bus transactions (20_memory R100 to R109, 10_state R36 to R66) and the
turns of the host and the reset agent. -/

namespace Sys2Proof.Machine

/-! ### Address map (20_memory R101) -/

/-- The region of a block address, with the offset in it. -/
inductive Region where
  | regs (off : Nat)
  | fb (off : Nat)
  | scr (off : Nat)
  | reserved
  deriving DecidableEq, Repr

/-- The address map of 20_memory R101. -/
def regionOf (a : BitVec 22) : Region :=
  let n := a.toNat
  if n < 0x001000 then .regs n
  else if n < 0x100000 then .reserved
  else if n < 0x200000 then .fb (n - 0x100000)
  else if n < 0x300000 then .scr (n - 0x200000)
  else .reserved

/-- An access of size `n` is misaligned (20_memory R106). -/
def misaligned (off : Nat) (n : Size) : Bool := off % n.bytes != 0

/-- The first failing check of an access to a memory window, if any (20_memory R108, R109). -/
def State.memCheck (s : State) (sp : Space) (off : Nat) (n : Size) : Option ErrFlag :=
  match sp with
  | .fb =>
    if misaligned off n = true then some .addr
    else if s.drv ≠ .running then some .state
    else if off + n.bytes > s.storeBytes then some .addr
    else none
  | .scr =>
    if misaligned off n = true then some .addr
    else if off + n.bytes > s.build.scrBytes then some .addr
    else none

/-! ### Register writes -/

/-- A legal RES value (10_state R40). -/
abbrev resLegal (fbBytes : Nat) (v : Word) : Prop :=
  (1 ≤ (lowHalf v).toNat ∧ (lowHalf v).toNat ≤ 32767) ∧
  (1 ≤ (highHalf v).toNat ∧ (highHalf v).toNat ≤ 32767) ∧
  2 * (lowHalf v).toNat * (highHalf v).toNat ≤ fbBytes

/-- The field a PIN or the byte-wide registers keep: bits 7:0 (10_state R65). -/
def lowByte (v : Word) : Byte := v.extractLsb' 0 8

/-- A legal PIN value (10_state R66). -/
abbrev pinLegal (npads : Nat) (v : Word) : Prop :=
  (lowByte v).toNat < npads ∨ lowByte v = unassigned

/-- A write of `v` to CTRL (10_state R37): the action, nothing, or Err(ARG). -/
def State.writeCtrl (s : State) (v : Word) : Result :=
  match decodeCtrl v with
  | .instr i => exec i s
  | .reject .noAction => .next s
  | .reject _ => .next (s.raise .arg)

/-- A write of `c` to CMD (42_raster_fill R281). Check 3, OP, stands between BUSY and ARG, so an
illegal word is told so only by a running, idle block. -/
def State.writeCmd (s : State) (c : Word) : Result :=
  match decodeCmd c with
  | .instr i => exec i s
  | .reject _ =>
    if s.drv ≠ .running then .next (s.raise .state)
    else if s.eng ≠ .idle then .next (s.raise .busy)
    else .next (s.raise .op)

/-- A write of `v` to a register that is neither read-only nor locked (10_state R39 to R66). Reserved
bits are ignored (R36(d)); an illegal value is rejected with Err(CFG). The read-only registers have
no write; `State.writeReg` never asks for one. -/
def State.storeReg (s : State) (r : Reg) (v : Word) : Result :=
  match r with
  | .ctrl => s.writeCtrl v
  | .cmd => s.writeCmd v
  | .err => .next (s.clearErr v)
  | .res =>
    if resLegal s.build.fbBytes v then .next { s with resW := lowHalf v, resH := highHalf v }
    else .next (s.raise .cfg)
  | .gpio => .next { s with gpio := v.extractLsb' 0 5 }
  | .hsw => if lowHalf v = 0 then .next (s.raise .cfg) else .next { s with hsw := lowHalf v }
  | .hbp => .next { s with hbp := lowHalf v }
  | .hfp => .next { s with hfp := lowHalf v }
  | .vsw => if lowHalf v = 0 then .next (s.raise .cfg) else .next { s with vsw := lowHalf v }
  | .vbp => .next { s with vbp := lowHalf v }
  | .vfp => .next { s with vfp := lowHalf v }
  | .pclkdiv => .next { s with pclkdiv := lowHalf v }
  | .pol => .next { s with pol := v.extractLsb' 0 4 }
  | .arg0 => .next { s with arg0 := v }
  | .arg1 => .next { s with arg1 := v }
  | .arg2 => .next { s with arg2 := v }
  | .arg3 => .next { s with arg3 := v }
  | .key => .next { s with key := lowHalf v }
  | .colorIn => .next { s with colorIn := v.extractLsb' 0 24 }
  | .pin i =>
    if pinLegal s.build.npads v then .next { s with pin := s.pin.set i (lowByte v) }
    else .next (s.raise .cfg)
  | .status | .sigstate | .result0 | .result1 | .colorOut | .cap0 | .cap1 | .cap2 =>
    .next (s.raise .addr)

/-- A 4-byte aligned write to a defined register: read-only, then lock, then value (60_exceptions
R464). -/
def State.writeReg (s : State) (r : Reg) (v : Word) : Result :=
  if r.readOnly = true then .next (s.raise .addr)
  else if r.lock.locked s.drv = true then .next (s.raise .state)
  else s.storeReg r v

/-! ### Transactions -/

/-- The register an access of size `n` at a window offset reaches; none where its width or alignment
is wrong (20_memory R107) or its offset reserved (10_state R36(b)). -/
def regTarget (off : Nat) (n : Size) : Option Reg :=
  if n ≠ .b4 ∨ misaligned off n = true then none else regAt off

/-- `Read(a, n)` (20_memory R100): the state after it, `rdata` the value returned. -/
def State.read (s : State) (a : BitVec 22) (n : Size) : State :=
  match regionOf a with
  | .regs off =>
    match regTarget off n with
    | none => s.rejectRead .addr
    | some r => s.readReg r
  | .fb off =>
    match s.memCheck .fb off n with
    | some f => s.rejectRead f
    | none => { s with rdata := s.memRead .fb off n }
  | .scr off =>
    match s.memCheck .scr off n with
    | some f => s.rejectRead f
    | none => { s with rdata := s.memRead .scr off n }
  | .reserved => s.rejectRead .addr

/-- `Write(a, n, v)` (20_memory R100). -/
def State.write (s : State) (a : BitVec 22) (n : Size) (v : Word) : Result :=
  match regionOf a with
  | .regs off =>
    match regTarget off n with
    | none => .next (s.raise .addr)
    | some r => s.writeReg r v
  | .fb off =>
    match s.memCheck .fb off n with
    | some f => .next (s.raise f)
    | none => .next (s.memWrite .fb off (n.dataBytes v))
  | .scr off =>
    match s.memCheck .scr off n with
    | some f => .next (s.raise f)
    | none => .next (s.memWrite .scr off (n.dataBytes v))
  | .reserved => .next (s.raise .addr)

/-- One bus transaction, with all its effects (20_memory R100). -/
def State.transact (s : State) : Txn → Result
  | .read a n => .next (s.read a n)
  | .write a n v => s.write a n v

/-! ### Turns -/

/-- One turn of the host: its next operation, if it has one. A `wait_idle` reads STATUS and is done
once BUSY = 0 and CLEARING = 0 (00_scope R13). -/
def State.hostTurn (s : State) : Result :=
  match s.hostQueue with
  | [] => .next s
  | .txn t :: rest => { s with hostQueue := rest }.transact t
  | .waitIdle :: rest =>
    if s.eng.busy || s.eng.isClearing then .next (s.readReg .status)
    else .next { s.readReg .status with hostQueue := rest }

/-- One turn of the reset agent (70_reset_and_hazards R500): every piece of the block's state takes
its reset value, FB and SCR become unspecified anew. What stands outside the block stays: the
build, the host's operations to come, the turns, what the block has put out (log entry 12). -/
def State.resetTurn (s : State) : State :=
  { State.resetOf s.build with
    fbEpoch := s.fbEpoch + 1
    scrEpoch := s.scrEpoch + 1
    pclkDraws := s.pclkDraws
    turnDraws := s.turnDraws
    rdata := s.rdata
    emitted := s.emitted
    hostQueue := s.hostQueue
    turns := s.turns }

/-- One turn of an agent (10_state R30). An agent with nothing to do leaves the state as it is. -/
def State.agentTurn (s : State) : Agent → Result
  | .host => s.hostTurn
  | .scan => .next s.scanTurn
  | .engine => .next s.engineTurn
  | .reset => .next s.resetTurn

/-- The agent that moves next: the head of `turns`, or a free choice (20_memory R112; log entry 2). -/
def State.nextAgent (s : State) : Agent := s.turns.headD (Config.freeTurn s.turnDraws)

/-- The state once that choice is taken. -/
def State.turnTaken (s : State) : State :=
  match s.turns with
  | [] => { s with turnDraws := s.turnDraws + 1 }
  | _ :: rest => { s with turns := rest }

/-- The register of a port (10_state R35). -/
def portAddr : Port → BitVec 22
  | .cmd => 0x40
  | .ctrl => 0x0

/-- The host operation that writes `w` to a port's register. -/
def portWrite (p : Port) (w : Word) : HostOp := .txn (.write (portAddr p) .b4 w)

end Sys2Proof.Machine
end

