-- ==== Sys2Proof/Machine/Step.lean ====
section
/-! DEFINITION. One step of the machine: one turn of one agent. -/

namespace Sys2Proof.Machine

/-- One step: the next agent takes its turn (20_memory R112). -/
def step (s : State) : Host.Outcome State Fault Refusal := s.turnTaken.agentTurn s.nextAgent

/-- The state in which the host's next operation writes the opcode table's word `w` to its register
and the host moves next, so that the next step runs exactly that instruction (log entry 1). -/
def State.withFetchWord (s : State) (nbits w : Nat) : State :=
  { s with
    hostQueue := portWrite (tablePort nbits) (tableWord nbits w) :: s.hostQueue
    turns := .host :: s.turns }

end Sys2Proof.Machine
end

