-- ==== Sys2Proof/Machine/Script.lean ====
section
/-! DEFINITION. The host script of 00_scope R13: `wr`, `rd` and the command mnemonics of 30_encoding
R156 and R157 as lists of host operations. Nothing in the block reads these; they say what a host
queues. -/

namespace Sys2Proof.Machine.Script

/-- `wr A, V`, `wr16`, `wr8` and `rd A` (00_scope R13). -/
def wr (a : BitVec 22) (v : Word) : HostOp := .txn (.write a .b4 v)
def wr16 (a : BitVec 22) (v : Word) : HostOp := .txn (.write a .b2 v)
def wr8 (a : BitVec 22) (v : Word) : HostOp := .txn (.write a .b1 v)
def rd (a : BitVec 22) : HostOp := .txn (.read a .b4)
def rd16 (a : BitVec 22) : HostOp := .txn (.read a .b2)
def rd8 (a : BitVec 22) : HostOp := .txn (.read a .b1)

/-- A register's block address (10_state R35). -/
def addr (r : Reg) : BitVec 22 := BitVec.ofNat 22 r.offset

/-- `{a, b}`: two values modulo 2^16, `a` in bits 31:16 (30_encoding R156). -/
def pack (a b : Int) : Word := BitVec.ofInt 16 a ++ BitVec.ofInt 16 b

/-- The write of a command word, then `wait_idle`. -/
def issue (imm low : Int) : List HostOp := [wr (addr .cmd) (pack imm low), .waitIdle]

def fill (c : Int) : List HostOp := issue c 0x0001

/-- The operand writes and command of the mnemonics with (x, y) and (w, h). -/
def xywh (low x y w h c : Int) : List HostOp :=
  [wr (addr .arg0) (pack y x), wr (addr .arg1) (pack h w)] ++ issue c low

def fillR (x y w h c : Int) : List HostOp := xywh 0x0002 x y w h c
def rect (x y w h c : Int) : List HostOp := xywh 0x0003 x y w h c
def rectF (x y w h c : Int) : List HostOp := xywh 0x0103 x y w h c
def hline (x y len c : Int) : List HostOp := xywh 0x0004 x y len 0 c
def vline (x y len c : Int) : List HostOp := xywh 0x0005 x y len 0 c
def line (x0 y0 x1 y1 c : Int) : List HostOp := xywh 0x0006 x0 y0 x1 y1 c
def pset (x y c : Int) : List HostOp := wr (addr .arg0) (pack y x) :: issue c 0x0007
def pget (x y : Int) : List HostOp :=
  wr (addr .arg0) (pack y x) :: issue 0 0x0008 ++ [rd (addr .result0)]

/-- BLIT and BLIT.K by the command's low half. -/
def blitWith (low x y sw sh : Int) (src : Word) : List HostOp :=
  [wr (addr .arg0) (pack y x), wr (addr .arg1) (pack sh sw), wr (addr .arg2) src] ++ issue 0 low

def blit (x y sw sh : Int) (src : Word) : List HostOp := blitWith 0x0009 x y sw sh src
def blitK (x y sw sh : Int) (src : Word) : List HostOp := blitWith 0x0109 x y sw sh src

def rot (w h : Int) (src dst : Word) (a : Int) : List HostOp :=
  [wr (addr .arg1) (pack h w), wr (addr .arg2) src, wr (addr .arg3) dst] ++ issue a 0x000A ++
    [rd (addr .result1)]

def init : List HostOp := [wr (addr .ctrl) 1]
def run : List HostOp := [wr (addr .ctrl) 2]
def deinit : List HostOp := [wr (addr .ctrl) 4]

/-! ### The caller operations (30_encoding R157) -/

/-- A write of levels to GPIO (10_state R42); levels are CS, SCK, SDO, RST, BL from bit 0 up. -/
def gpio (levels : BitVec 5) : HostOp := wr (addr .gpio) (levels.setWidth 32)

/-- Levels with GPIO.BL set, and with it cleared. -/
def withBL (levels : BitVec 5) : BitVec 5 := levels ||| 0b10000
def withoutBL (levels : BitVec 5) : BitVec 5 := levels &&& 0b01111

/-- The timing registers (10_state R44, R46, R47), in address order. -/
def timingRegs : List Reg := [.hsw, .hbp, .hfp, .vsw, .vbp, .vfp, .pclkdiv, .pol]

/-- The writes of those timing registers that `value` gives a value. -/
def timing (value : Reg → Option Word) : List HostOp :=
  timingRegs.filterMap fun r => (value r).map (wr (addr r))

/-- Construct with PanelConfig: RES, then PIN[0..24], then the timing registers as wanted
(45_lifecycle R420 step 1). -/
def construct (w h : Int) (pins : Vector Byte 25) (value : Reg → Option Word) : List HostOp :=
  wr (addr .res) (pack h w) ::
    (List.finRange 25).map (fun i => wr (addr (.pin i)) (pins[i].setWidth 32)) ++ timing value

/-- What the host drives on the control lines between INIT and RUN: the panel reset's levels, the
levels with which the backlight goes on if wanted, the bring-up's levels (45_lifecycle R420 steps 3 to
5). Which levels these are is the panel's protocol, out of scope (00_scope R5). -/
structure BringUp where
  reset : List (BitVec 5)
  backlight : Option (BitVec 5)
  sequence : List (BitVec 5)
  deriving DecidableEq, Repr

/-- `init()` (45_lifecycle R420): construct, INIT, the panel's reset and bring-up, `wait_idle`, RUN. -/
def initCall (w h : Int) (pins : Vector Byte 25) (value : Reg → Option Word) (b : BringUp) :
    List HostOp :=
  construct w h pins value ++ init ++ b.reset.map gpio ++
    b.backlight.toList.map (fun l => gpio (withBL l)) ++ b.sequence.map gpio ++ [.waitIdle] ++ run

/-- `deinit()` (45_lifecycle R421): `wait_idle`, DEINIT, then GPIO.BL cleared if wanted, the other lines
at `levels`. -/
def deinitCall (levels : Option (BitVec 5)) : List HostOp :=
  .waitIdle :: deinit ++ levels.toList.map fun l => gpio (withoutBL l)

/-- `width()` and `height()`: a read of RES and its fields (45_lifecycle R422). -/
def resolution : List HostOp := [rd (addr .res)]
def widthOf (res : Word) : Nat := (lowHalf res).toNat
def heightOf (res : Word) : Nat := (highHalf res).toNat

/-- The block addresses of byte `off` of the FB window and of the SCR window (20_memory R101). -/
def fbAddr (off : Nat) : BitVec 22 := BitVec.ofNat 22 (0x100000 + off)
def scrAddr (off : Nat) : BitVec 22 := BitVec.ofNat 22 (0x200000 + off)

/-- `framebuffer()`: the block addresses 0x100000 .. 0x100000 + 2*W*H - 1 of the FB window. -/
def framebuffer (w h : Nat) : List (BitVec 22) := (List.range (2 * w * h)).map fbAddr

/-- `fill`, `fill_rect`, `rect`, `hline`, `vline`, `line`, `pixel(x, y, c)` and `pixel(x, y)` are the
mnemonics; `filled` chooses RECT.F. -/
def rectCall (x y w h c : Int) (filled : Bool) : List HostOp :=
  if filled then rectF x y w h c else rect x y w h c

/-- The host's writes of pixels into SCR from offset `off` on, one 2-byte write each. -/
def storePixels : (off : Nat) → List Pixel → List HostOp
  | _, [] => []
  | off, v :: vs => wr16 (scrAddr off) (v.setWidth 32) :: storePixels (off + 2) vs

/-- The host's reads of `n` pixels from SCR offset `off` on. -/
def loadPixels (off n : Nat) : List HostOp :=
  (List.range n).map fun i => rd16 (scrAddr (off + 2 * i))

/-- `blit(sprite, x, y[, width, height])`: the sprite, row-major, is written to SCR at the even offset
`src`, then BLIT.K with the sprite's own dimensions (44_raster_blit_rotate R360). -/
def blitCall (sprite : List Pixel) (x y sw sh : Int) (src : Nat) : List HostOp :=
  storePixels src sprite ++ blitK x y sw sh (BitVec.ofNat 32 src)

/-- `rotate(data, w, h, angle)`: `data` is written to SCR at `src`, then ROT, whose last operation reads
RESULT1; the rotated buffer stands at SCR offset `dst`, where `loadPixels dst (w*h)` reads it. -/
def rotateCall (data : List Pixel) (w h : Int) (src dst : Nat) (angle : Int) : List HostOp :=
  storePixels src data ++ rot w h (BitVec.ofNat 32 src) (BitVec.ofNat 32 dst) angle

/-- `new_w` and `new_h` from the value read of RESULT1. -/
def newWidthOf (result1 : Word) : Nat := (lowHalf result1).toNat
def newHeightOf (result1 : Word) : Nat := (highHalf result1).toNat

/-- `rgb565(r, g, b)` (46_color R440). -/
def rgb565Call (r g b : Byte) : List HostOp :=
  [wr (addr .colorIn) ((0 : Byte) ++ r ++ g ++ b), rd (addr .colorOut)]

end Sys2Proof.Machine.Script
end

