-- ==== Sys2Proof/Safety.lean ====
section
/-! DEFINITION. The terms claims use: the launch premises of 70_reset_and_hazards R541, the end of a
run (R542), and the invariant of the block (45_lifecycle R423 and the value rules of 10_state). -/

namespace Sys2Proof.Machine

/-! ### Launch and end -/

/-- `clean_reset` of a build (70_reset_and_hazards R541): the values of R501, whatever the draws of FB
and SCR, whatever stands around the block. -/
abbrev State.cleanReset (s : State) : Prop :=
  s = { State.resetOf s.build with
    fbEpoch := s.fbEpoch, scrEpoch := s.scrEpoch, pclkDraws := s.pclkDraws
    turnDraws := s.turnDraws, rdata := s.rdata, emitted := s.emitted
    hostQueue := s.hostQueue, turns := s.turns }

/-- Every assigned number names a pad (10_state R66). -/
abbrev padsLegal (npads : Nat) (pins : Vector Byte 25) : Prop :=
  ∀ i : Fin 25, pins[i] = unassigned ∨ pins[i].toNat < npads

/-- A valid and complete assignment (45_lifecycle R401, 10_state R66). -/
abbrev pinsComplete (npads : Nat) (pins : Vector Byte 25) : Prop :=
  padsLegal npads pins ∧ pinMissing pins = false ∧ pinShared pins = false

/-- `clean_running(W, H, fb)` (70_reset_and_hazards R541); `fb` gives the bytes of the store. -/
structure State.CleanRunning (s : State) (W H : Nat) (fb : Nat → Byte) : Prop where
  running : s.drv = .running
  idle : s.eng = .idle
  err : s.err = 0
  width : s.width = W
  height : s.height = H
  pins : pinsComplete s.build.npads s.pin
  routes : pinsComplete s.build.npads s.route
  store : ∀ a < 2 * W * H, s.byteAt .fb a = fb a

/-- The end of a run of a host program (70_reset_and_hazards R542). -/
abbrev State.runOver (s : State) : Prop := s.hostQueue = [] ∧ s.eng = .idle

/-- `n` steps, one after the other. -/
def State.stepRun : Nat → State → Result
  | 0, s => .next s
  | n + 1, s =>
    match step s with
    | .next t => State.stepRun n t
    | o => o

/-! ### Commands -/

/-- Check 4 of 42_raster_fill R281 for the copies of a job: BLIT's and ROTATE's argument checks. -/
def Job.argsInvalid (j : Job) (scrBytes : Nat) : Bool :=
  match j.cmd with
  | .blit _ _ => blitArgsInvalid j scrBytes
  | .rotate angle => rotateArgsInvalid angle j scrBytes
  | _ => false

/-- The operations that are two events, a read and then a write (42_raster_fill R284). -/
def Op.twoEvents : Op → Bool
  | .copyS .. | .rotS .. => true
  | _ => false

/-- Whether the command is PIXEL_GET. -/
def isPixelGet : Instr → Bool
  | .pixelGet _ => true
  | _ => false

/-- `i` is accepted at `s`, and the engine, moving alone, completes it within `bound` turns: then
everything is as it was but FB, where the pixels of `P` have the colour and every other pixel of the
Framebuffer Store and every byte above it reads as before. -/
def State.CompletesPainting (s : State) (i : Instr) (bound : Nat) (color : Pixel)
    (P : Int → Int → Prop) : Prop :=
  exec i s = .next (s.accept i) ∧
  ∃ n ≤ bound, ∃ m : Memory,
    (s.accept i).engineRun n = { s with fb := m } ∧
    (∀ x y, inb s.width s.height x y →
      (P x y → { s with fb := m }.pix x y = color) ∧
      (¬P x y → { s with fb := m }.pix x y = s.pix x y)) ∧
    ∀ a, s.storeBytes ≤ a → { s with fb := m }.byteAt .fb a = s.byteAt .fb a

/-- A state that accepts a raster command: RUNNING and idle (42_raster_fill R281). -/
abbrev State.acceptsCommands (s : State) : Prop := s.drv = .running ∧ s.eng = .idle

/-! ### The invariant -/

/-- What an executing job is like: a raster command with valid arguments, its progress within its
list, a pixel held only where its operation or its result still uses one. -/
structure Job.Ok (j : Job) (W H scrBytes : Nat) : Prop where
  raster : j.cmd.port = .cmd
  args : j.argsInvalid scrBytes = false
  progress : j.k ≤ (j.ops W H).length
  heldGet : isPixelGet j.cmd = true → (j.held.isSome = true ↔ j.k = 1)
  heldOther : isPixelGet j.cmd = false → j.held.isSome = true →
    ∃ op, (j.ops W H)[j.k]? = some op ∧ op.twoEvents = true

/-- A resolution the block can hold (10_state R40). -/
abbrev State.resolutionLegal (s : State) : Prop :=
  (1 ≤ s.width ∧ s.width ≤ 32767) ∧ (1 ≤ s.height ∧ s.height ≤ 32767) ∧
    s.storeBytes ≤ s.build.fbBytes

/-- 45_lifecycle R423: ENG is Idle in UNINIT and STOPPED, Clearing only in INITIALIZING, Exec only in
RUNNING. -/
abbrev State.lifecycleOk (s : State) : Prop :=
  ((s.drv = .uninit ∨ s.drv = .stopped) → s.eng = .idle) ∧
  (s.eng.isClearing = true → s.drv = .initializing) ∧
  (s.eng.busy = true → s.drv = .running)

/-- The invariant of the block. -/
structure State.Inv (s : State) : Prop where
  /-- the build is one of 00_scope R7 -/
  build : s.build.legal
  /-- the memories keep their canonical form, inside their capacity -/
  fbWf : s.fb.wf
  scrWf : s.scr.wf
  fbInside : ∀ c ∈ s.fb, c.1 < s.build.fbBytes
  scrInside : ∀ c ∈ s.scr, c.1 < s.build.scrBytes
  /-- RES is 0 or legal (10_state R40) -/
  res : (s.resW = 0 ∧ s.resH = 0) ∨ s.resolutionLegal
  /-- HSW and VSW are never 0 (10_state R45) -/
  hsync : s.hsw ≠ 0
  vsync : s.vsw ≠ 0
  /-- PIN holds pad numbers or 0xFF (10_state R66) -/
  pins : padsLegal s.build.npads s.pin
  /-- the routing in force is complete once INIT was accepted (45_lifecycle R400, R401) -/
  routes : s.drv ≠ .uninit → pinsComplete s.build.npads s.route
  /-- no signal is routed before (70_reset_and_hazards R501) -/
  unrouted : s.drv = .uninit → s.route = Vector.replicate 25 unassigned
  /-- the configuration in use never changes (10_state R36(f)) -/
  locked : s.drv = .initializing ∨ s.drv = .running → s.route = s.pin ∧ s.resolutionLegal
  lifecycle : s.lifecycleOk
  /-- the scan position is within its frame (10_state R70) -/
  scan : s.drv = .running → s.hcnt < s.htotal ∧ s.vcnt < s.vtotal
  /-- the scan has emitted a tuple of its own since RUN, or stands at its start (R242) -/
  panelHeld : s.drv = .running → s.panel = none → s.hcnt = 0 ∧ s.vcnt = 0
  /-- nothing is held while the scan is not running (41_timing_generator R243) -/
  panelIdle : s.drv ≠ .running → s.panel = none
  clear : ∀ n, s.eng = .clearing n → n ≤ s.width * s.height
  job : ∀ j, s.eng = .exec j → j.Ok s.width s.height s.build.scrBytes

/-! ### Unspecified bytes -/

/-- Two states alike but for FB bytes the block cannot have shown: those not cleared yet, and all of
them outside the states in which FB is used. -/
def sameButUnseenFb (s t : State) : Prop :=
  t = { s with fb := t.fb, fbEpoch := t.fbEpoch } ∧
  (s.drv = .running → ∀ a < s.storeBytes, t.byteAt .fb a = s.byteAt .fb a) ∧
  (s.drv = .initializing → s.eng = .idle →
    ∀ a < s.storeBytes, t.byteAt .fb a = s.byteAt .fb a) ∧
  (s.drv = .initializing → ∀ n, s.eng = .clearing n →
    ∀ a < 2 * n, t.byteAt .fb a = s.byteAt .fb a)

end Sys2Proof.Machine
end

