-- ==== Sys2Proof/Certificates/Slice0/Obligations.lean ====
section
/-! DEFINITION. The statements for the provers. Each docstring names the rule of the spec it states. -/

open Sys2Proof Sys2Proof.Machine

/-! ### Encoding -/

/-- Decoding the bytes of an encoded instruction gives the instruction back: every instruction, every
operand (30_encoding R150, R152, R155). -/
def Obligations.DecodeOfEncodedInstr : Prop :=
  ∀ i : Instr, decodeBytes i.port (encodeBytes i) = .instr i

/-- A word that decodes is the encoding of what it decodes to, at the port it was decoded for. For
words with ignored bits (IMM of PIXEL_GET and BLIT, bits 31:3 of CTRL, which 30_encoding R150 and R155
call ignored) this is the model's choice: log entry 8 keeps those bits as fields of Instr that no
meaning reads, so that words the spec treats alike are different instructions of one meaning. -/
def Obligations.EncodeOfDecodedWord : Prop :=
  ∀ (p : Port) (w : Word) (i : Instr), decodeWord p w = .instr i → i.port = p ∧ encode i = w

/-- The opcode map and the decoder of 30_encoding R153, for every word. -/
def Obligations.CmdWordOpcodeMap : Prop :=
  ∀ c : Word,
    let op := (c.extractLsb' 0 8).toNat
    let flag := c.getLsbD 8
    let imm := c.extractLsb' 16 16
    let illegal := ¬(0x01 ≤ op ∧ op ≤ 0x0A) ∨ c.extractLsb' 9 7 ≠ 0 ∨
      (flag = true ∧ ¬(op = 0x03 ∨ op = 0x09))
    (illegal → ∃ e, decodeCmd c = .reject e) ∧
    (¬illegal → decodeCmd c = .instr
      (if op = 0x01 then .fill imm
       else if op = 0x02 then .fillRect imm
       else if op = 0x03 then .rect flag imm
       else if op = 0x04 then .hline imm
       else if op = 0x05 then .vline imm
       else if op = 0x06 then .line imm
       else if op = 0x07 then .pixelSet imm
       else if op = 0x08 then .pixelGet imm
       else if op = 0x09 then .blit flag imm
       else .rotate imm))

/-- An illegal command word sets ERR.OP and does nothing else; opcodes 0x00 and 0x0B..0xFF are always
illegal; CMD[31:16] is never checked (30_encoding R154). -/
def Obligations.IllegalCmdWordRejected : Prop :=
  (∀ (s : State) (c : Word) (e : DecodeError), s.acceptsCommands → decodeCmd c = .reject e →
    s.writeCmd c = .next { s with err := s.err ||| 0b010000 }) ∧
  (∀ c : Word, (c.extractLsb' 0 8 = 0x00 ∨ 0x0B ≤ (c.extractLsb' 0 8).toNat) →
    ∃ e, decodeCmd c = .reject e) ∧
  (∀ (c : Word) (imm : BitVec 16),
    (∃ e, decodeCmd c = .reject e) ↔ ∃ e, decodeCmd (imm ++ c.extractLsb' 0 16) = .reject e)

/-- A CTRL write performs the action of its one set bit, nothing where none is set, and sets ERR.ARG
where several are; bits 31:3 are ignored; CTRL reads 0 (10_state R37, 30_encoding R155). A bus write of
any word to CTRL is such a write. -/
def Obligations.CtrlWriteActions : Prop :=
  ∀ (s : State) (rsv : BitVec 29),
    (∀ v : Word, s.write 0x000 .b4 v = s.writeCtrl v) ∧
    s.writeCtrl (rsv ++ 0b000#3) = .next s ∧
    s.writeCtrl (rsv ++ 0b001#3) = exec (.init 0) s ∧
    s.writeCtrl (rsv ++ 0b010#3) = exec (.run 0) s ∧
    s.writeCtrl (rsv ++ 0b100#3) = exec (.deinit 0) s ∧
    (∀ b : BitVec 3, b ∉ [0b000#3, 0b001#3, 0b010#3, 0b100#3] →
      s.writeCtrl (rsv ++ b) = .next (s.raise .arg)) ∧
    s.regValue .ctrl = 0

/-- A few words of the spec decode to what the spec says (30_encoding R155, R156, R158). -/
def Obligations.SpecWordsDecode : Prop :=
  decodeWord .cmd 0xFFFF0002 = .instr (.fillRect 0xFFFF) ∧
  decodeWord .cmd 0x07E00002 = .instr (.fillRect 0x07E0) ∧
  decodeWord .cmd 0xF8000103 = .instr (.rect true 0xF800) ∧
  decodeWord .cmd 0x00000008 = .instr (.pixelGet 0) ∧
  decodeWord .cmd 0x00000109 = .instr (.blit true 0) ∧
  decodeWord .cmd 0x005A000A = .instr (.rotate 90) ∧
  decodeWord .cmd 0x00000201 = .reject .reservedBits ∧
  decodeWord .cmd 0x00000107 = .reject .flagNotAllowed ∧
  decodeWord .cmd 0x0000000B = .reject .reservedOpcode ∧
  decodeWord .ctrl 0x00000001 = .instr (.init 0) ∧
  decodeWord .ctrl 0x00000002 = .instr (.run 0) ∧
  decodeWord .ctrl 0x00000004 = .instr (.deinit 0) ∧
  decodeWord .ctrl 0x00000003 = .reject .severalActions

/-! ### The step -/

/-- A step is the turn of the agent that moves next, the turn taken off `turns` or drawn (log entry 2).
Where the host's next operation writes a word that decodes, to the word's port, it is `exec` of the
decoded instruction at the state with the turn taken and that operation removed; and it is every other
bus write and read the host issues, a poll of STATUS at `wait_idle`, and nothing where the host has no
operation (00_scope R13, 20_memory R100; log entries 1, 16). The scan's turn is one pixel period, the
engine's one event, the reset agent's the reset of the block (10_state R30). -/
def Obligations.StepRunsDecodedInstr : Prop :=
  ∀ s : State,
    (∀ (a : Agent) (rest : List Agent), s.turns = a :: rest →
      s.nextAgent = a ∧ s.turnTaken = { s with turns := rest }) ∧
    (s.turns = [] → s.nextAgent = Config.freeTurn s.turnDraws ∧
      s.turnTaken = { s with turnDraws := s.turnDraws + 1 }) ∧
    (s.nextAgent = .host →
      (∀ (p : Port) (w : Word) (i : Instr) (q : List HostOp),
        decodeBytes p (bytesOfWord w) = .instr i → s.hostQueue = portWrite p w :: q →
        step s = exec i { s.turnTaken with hostQueue := q }) ∧
      (∀ (a : BitVec 22) (n : Size) (v : Word) (q : List HostOp),
        s.hostQueue = .txn (.write a n v) :: q →
        step s = { s.turnTaken with hostQueue := q }.write a n v) ∧
      (∀ (a : BitVec 22) (n : Size) (q : List HostOp), s.hostQueue = .txn (.read a n) :: q →
        step s = .next ({ s.turnTaken with hostQueue := q }.read a n)) ∧
      (∀ q : List HostOp, s.hostQueue = .waitIdle :: q →
        step s = .next { s.turnTaken with
          rdata := s.status
          hostQueue := if s.status.getLsbD 2 = false ∧ s.status.getLsbD 3 = false then q
            else .waitIdle :: q }) ∧
      (s.hostQueue = [] → step s = .next s.turnTaken)) ∧
    (s.nextAgent = .scan → step s = .next s.turnTaken.scanTurn) ∧
    (s.nextAgent = .engine → step s = .next s.turnTaken.engineTurn) ∧
    (s.nextAgent = .reset → step s = .next s.turnTaken.resetTurn)

/-- No step faults or is refused, whatever the state: the block never traps or halts
(60_exceptions R460). -/
def Obligations.EveryStepAnswersNext : Prop := ∀ s : State, ∃ t, step s = .next t

/-! ### Issue of a command -/

/-- The checks of a CMD write in the order of 42_raster_fill R281, then acceptance. A bus write of any
word to CMD, legal or not, is such a write. -/
def Obligations.CmdWriteCheckOrder : Prop :=
  ∀ (s : State) (c : Word),
    s.write 0x040 .b4 c = s.writeCmd c ∧
    (∀ i, decodeCmd c = .instr i → s.writeCmd c = exec i s) ∧
    (s.drv ≠ .running → s.writeCmd c = .next (s.raise .state)) ∧
    (s.drv = .running → s.eng ≠ .idle → s.writeCmd c = .next (s.raise .busy)) ∧
    (s.acceptsCommands → ∀ e, decodeCmd c = .reject e → s.writeCmd c = .next (s.raise .op)) ∧
    (s.acceptsCommands → ∀ i, decodeCmd c = .instr i →
      ((s.jobOf i).argsInvalid s.build.scrBytes = true → s.writeCmd c = .next (s.raise .arg)) ∧
      ((s.jobOf i).argsInvalid s.build.scrBytes = false → s.writeCmd c = .next (s.accept i)))

/-- Acceptance sets BUSY and copies the command word, ARG0..ARG3 and KEY; from then on the engine
computes from the copies alone: whatever the registers hold later, its turn does the same
(42_raster_fill R283). -/
def Obligations.AcceptedCommandUsesItsCopies : Prop :=
  (∀ (s : State) (c : Word) (i : Instr), s.acceptsCommands → decodeCmd c = .instr i →
    (s.jobOf i).argsInvalid s.build.scrBytes = false →
    ∃ t j, s.writeCmd c = .next t ∧ t = { s with eng := .exec j } ∧ encode j.cmd = c ∧
      (j.a0, j.a1, j.a2, j.a3, j.key, j.k) = (s.arg0, s.arg1, s.arg2, s.arg3, s.key, 0) ∧
      t.status.getLsbD 2 = true) ∧
  (∀ (s : State) (a0 a1 a2 a3 : Word) (key : Pixel),
    { s with arg0 := a0, arg1 := a1, arg2 := a2, arg3 := a3, key := key }.engineTurn =
      { s.engineTurn with arg0 := a0, arg1 := a1, arg2 := a2, arg3 := a3, key := key })

/-! ### The raster commands, each completing -/

/-- FILL sets every pixel to COLOR (42_raster_fill R290). -/
def Obligations.FillPaintsEveryPixel : Prop :=
  ∀ (s : State) (color : Pixel), s.acceptsCommands →
    s.CompletesPainting (.fill color) (s.width * s.height + 1) color fun _ _ => True

/-- FILL_RECT paints exactly the intersection of `[x, x+w) x [y, y+h)` with the buffer, computed
without wrap (42_raster_fill R295). -/
def Obligations.FillRectPaintsIntersection : Prop :=
  ∀ (s : State) (color : Pixel) (x y w h : Int), s.acceptsCommands →
    x = (s.arg0.extractLsb' 0 16).toInt → y = (s.arg0.extractLsb' 16 16).toInt →
    w = (s.arg1.extractLsb' 0 16).toInt → h = (s.arg1.extractLsb' 16 16).toInt →
    s.CompletesPainting (.fillRect color) (s.width * s.height + 1) color fun px py =>
      (x ≤ px ∧ px < x + w) ∧ (y ≤ py ∧ py < y + h)

/-- RECT paints the rectangle (F = 1), or its first and last columns and rows (F = 0), clipped pixel
by pixel (42_raster_fill R300). -/
def Obligations.RectPaintsWholeOrOutline : Prop :=
  ∀ (s : State) (filled : Bool) (color : Pixel) (x y w h : Int), s.acceptsCommands →
    x = (s.arg0.extractLsb' 0 16).toInt → y = (s.arg0.extractLsb' 16 16).toInt →
    w = (s.arg1.extractLsb' 0 16).toInt → h = (s.arg1.extractLsb' 16 16).toInt →
    s.CompletesPainting (.rect filled color) (s.width * s.height + 1) color fun px py =>
      ((x ≤ px ∧ px < x + w) ∧ (y ≤ py ∧ py < y + h)) ∧
        (filled = true ∨ px = x ∨ px = x + w - 1 ∨ py = y ∨ py = y + h - 1)

/-- HLINE paints the run of `len` pixels right of (x, y), clipped; ARG1[31:16] is ignored
(42_raster_fill R305). -/
def Obligations.HlinePaintsRun : Prop :=
  ∀ (s : State) (color : Pixel) (x y len : Int), s.acceptsCommands →
    x = (s.arg0.extractLsb' 0 16).toInt → y = (s.arg0.extractLsb' 16 16).toInt →
    len = (s.arg1.extractLsb' 0 16).toInt →
    s.CompletesPainting (.hline color) (s.width * s.height + 1) color fun px py =>
      (x ≤ px ∧ px < x + len) ∧ py = y

/-- VLINE paints the run of `len` pixels down from (x, y), clipped (42_raster_fill R310). -/
def Obligations.VlinePaintsRun : Prop :=
  ∀ (s : State) (color : Pixel) (x y len : Int), s.acceptsCommands →
    x = (s.arg0.extractLsb' 0 16).toInt → y = (s.arg0.extractLsb' 16 16).toInt →
    len = (s.arg1.extractLsb' 0 16).toInt →
    s.CompletesPainting (.vline color) (s.width * s.height + 1) color fun px py =>
      px = x ∧ (y ≤ py ∧ py < y + len)

/-- A width, height or length of 0 or less requests no pixel: the command is accepted, completes in
one turn, and everything is as before, ERR too (42_raster_fill R287). -/
def Obligations.NonPositiveSizesDrawNothing : Prop :=
  ∀ (s : State) (i : Instr) (color : Pixel), s.acceptsCommands →
    let w := (s.arg1.extractLsb' 0 16).toInt
    let h := (s.arg1.extractLsb' 16 16).toInt
    (((i = .fillRect color ∨ ∃ f, i = .rect f color) ∧ (w ≤ 0 ∨ h ≤ 0)) ∨
      ((i = .hline color ∨ i = .vline color) ∧ w ≤ 0)) →
    exec i s = .next (s.accept i) ∧ (s.accept i).engineRun 1 = s

/-- LINE paints the points of its rasterised list that lie inside the buffer; the list is that of the
unclipped end points (43_raster_line_pixel R330). -/
def Obligations.LinePaintsItsPoints : Prop :=
  ∀ (s : State) (color : Pixel) (x0 y0 x1 y1 : Int), s.acceptsCommands →
    x0 = (s.arg0.extractLsb' 0 16).toInt → y0 = (s.arg0.extractLsb' 16 16).toInt →
    x1 = (s.arg1.extractLsb' 0 16).toInt → y1 = (s.arg1.extractLsb' 16 16).toInt →
    s.CompletesPainting (.line color) 65537 color fun px py => (px, py) ∈ linePoints x0 y0 x1 y1

/-- The points of a line between s16 end points: max(|x1-x0|, |y1-y0|) + 1 of them, from (x0, y0) to
(x1, y1), each 8-connected to the next, none twice (43_raster_line_pixel R330, corner cases). Which
points they are: along the longer axis one step a point, and along the other axis, after k steps, the m
with (2m-1)*major <= 2*minor*k < (2m+1)*major, where major and minor are the distances of the end points
along the two axes (the closed form of R330's loop). -/
def Obligations.LinePointsJoinEnds : Prop :=
  ∀ a0 b0 a1 b1 : BitVec 16,
    let x0 := a0.toInt
    let y0 := b0.toInt
    let x1 := a1.toInt
    let y1 := b1.toInt
    let adx : Int := (x1 - x0).natAbs
    let ady : Int := (y1 - y0).natAbs
    let sx : Int := if x0 < x1 then 1 else -1
    let sy : Int := if y0 < y1 then 1 else -1
    let pts := linePoints x0 y0 x1 y1
    pts.length = max (x1 - x0).natAbs (y1 - y0).natAbs + 1 ∧
    pts.head? = some (x0, y0) ∧ pts.getLast? = some (x1, y1) ∧
    pts.IsChain (fun p q => (q.1 - p.1).natAbs ≤ 1 ∧ (q.2 - p.2).natAbs ≤ 1 ∧ p ≠ q) ∧ pts.Nodup ∧
    (ady ≤ adx → 0 < adx → ∀ k : Nat, k ≤ adx → ∃ m : Int,
      ((2 * m - 1) * adx ≤ 2 * ady * k ∧ 2 * ady * k < (2 * m + 1) * adx) ∧
      pts[k]? = some (x0 + sx * k, y0 + sy * m)) ∧
    (adx < ady → ∀ k : Nat, k ≤ ady → ∃ m : Int,
      ((2 * m - 1) * ady ≤ 2 * adx * k ∧ 2 * adx * k < (2 * m + 1) * ady) ∧
      pts[k]? = some (x0 + sx * m, y0 + sy * k))

/-- PIXEL_SET writes the pixel (x, y), and nothing where it lies outside (43_raster_line_pixel R340). -/
def Obligations.PixelSetWritesItsPixel : Prop :=
  ∀ (s : State) (color : Pixel) (x y : Int), s.acceptsCommands →
    x = (s.arg0.extractLsb' 0 16).toInt → y = (s.arg0.extractLsb' 16 16).toInt →
    s.CompletesPainting (.pixelSet color) 2 color fun px py => px = x ∧ py = y

/-- PIXEL_GET writes RESULT0 at completion: the pixel read, zero-extended, or 0xFFFFFFFF where (x, y)
lies outside (43_raster_line_pixel R345). Nothing else changes. -/
def Obligations.PixelGetReadsPixelOrSentinel : Prop :=
  ∀ (s : State) (imm : BitVec 16) (x y : Int), s.acceptsCommands →
    x = (s.arg0.extractLsb' 0 16).toInt → y = (s.arg0.extractLsb' 16 16).toInt →
    exec (.pixelGet imm) s = .next (s.accept (.pixelGet imm)) ∧
    (inb s.width s.height x y →
      ((s.accept (.pixelGet imm)).engineRun 1).status.getLsbD 2 = true ∧
      ((s.accept (.pixelGet imm)).engineRun 1).result0 = s.result0 ∧
      (s.accept (.pixelGet imm)).engineRun 2 = { s with result0 := (s.pix x y).setWidth 32 }) ∧
    (¬inb s.width s.height x y →
      (s.accept (.pixelGet imm)).engineRun 1 = { s with result0 := 0xFFFFFFFF })

/-- BLIT copies the visible part of the sprite, skipping pixels equal to KEY where K = 1; every other
pixel of the store, every byte above it and all of SCR are as before (44_raster_blit_rotate R360). -/
def Obligations.BlitCopiesVisibleSprite : Prop :=
  ∀ (s : State) (keyed : Bool) (imm : BitVec 16) (x y : Int) (sw sh src : Nat), s.acceptsCommands →
    x = (s.arg0.extractLsb' 0 16).toInt → y = (s.arg0.extractLsb' 16 16).toInt →
    sw = (s.arg1.extractLsb' 0 16).toNat → sh = (s.arg1.extractLsb' 16 16).toNat →
    src = s.arg2.toNat → src % 2 = 0 → src + 2 * sw * sh ≤ s.build.scrBytes →
    exec (.blit keyed imm) s = .next (s.accept (.blit keyed imm)) ∧
    ∃ n ≤ 2 * (sw * sh) + 1, ∃ m : Memory,
      (s.accept (.blit keyed imm)).engineRun n = { s with fb := m } ∧
      (∀ px py, inb s.width s.height px py →
        let v := s.sPix (src + 2 * ((py - y).toNat * sw + (px - x).toNat))
        { s with fb := m }.pix px py =
          if ((x ≤ px ∧ px < x + sw) ∧ (y ≤ py ∧ py < y + sh)) ∧ ¬(keyed = true ∧ v = s.key)
          then v else s.pix px py) ∧
      ∀ a, s.storeBytes ≤ a → { s with fb := m }.byteAt .fb a = s.byteAt .fb a

/-- BLIT is rejected with Err(ARG) exactly if `src` is odd or the whole sprite does not fit in SCR
(44_raster_blit_rotate R361). -/
def Obligations.BlitArgumentCheck : Prop :=
  ∀ (s : State) (keyed : Bool) (imm : BitVec 16), s.acceptsCommands →
    let src := s.arg2.toNat
    let sw := (s.arg1.extractLsb' 0 16).toNat
    let sh := (s.arg1.extractLsb' 16 16).toNat
    exec (.blit keyed imm) s =
      if src % 2 = 1 ∨ src + 2 * sw * sh > s.build.scrBytes then .next (s.raise .arg)
      else .next (s.accept (.blit keyed imm))

/-- An accepted ROTATE turns the buffer clockwise: source pixel (x, y) goes to (x, y), (h-1-y, x),
(w-1-x, h-1-y) or (y, w-1-x); SCR outside the destination, and all of FB, are as before
(44_raster_blit_rotate R375). -/
def Obligations.RotateTurnsBuffer : Prop :=
  ∀ (s : State) (angle : BitVec 16) (w h src dst : Nat), s.acceptsCommands →
    w = (s.arg1.extractLsb' 0 16).toNat → h = (s.arg1.extractLsb' 16 16).toNat →
    src = s.arg2.toNat → dst = s.arg3.toNat →
    angle ∈ [0, 90, 180, 270] → src % 2 = 0 → dst % 2 = 0 →
    src + 2 * w * h ≤ s.build.scrBytes → dst + 2 * w * h ≤ s.build.scrBytes →
    ¬(w * h > 0 ∧ src < dst + 2 * w * h ∧ dst < src + 2 * w * h) →
    exec (.rotate angle) s = .next (s.accept (.rotate angle)) ∧
    ∃ n ≤ 2 * (w * h) + 1, ∃ (m : Memory) (r : Word),
      (s.accept (.rotate angle)).engineRun n = { s with scr := m, result1 := r } ∧
      (∀ x y : Nat, x < w → y < h →
        let d :=
          if angle = 0 then y * w + x
          else if angle = 90 then x * h + (h - 1 - y)
          else if angle = 180 then (h - 1 - y) * w + (w - 1 - x)
          else (w - 1 - x) * h + y
        { s with scr := m }.sPix (dst + 2 * d) = s.sPix (src + 2 * (y * w + x))) ∧
      ∀ a, (a < dst ∨ dst + 2 * w * h ≤ a) →
        { s with scr := m }.byteAt .scr a = s.byteAt .scr a

/-- ROTATE's checks: Err(ARG) exactly in the cases of 44_raster_blit_rotate R376. -/
def Obligations.RotateArgumentCheck : Prop :=
  ∀ (s : State) (angle : BitVec 16), s.acceptsCommands →
    let w := (s.arg1.extractLsb' 0 16).toNat
    let h := (s.arg1.extractLsb' 16 16).toNat
    let src := s.arg2.toNat
    let dst := s.arg3.toNat
    exec (.rotate angle) s =
      if angle ∉ [0, 90, 180, 270] ∨ (src % 2 = 1 ∨ dst % 2 = 1) ∨
          (src + 2 * w * h > s.build.scrBytes ∨ dst + 2 * w * h > s.build.scrBytes) ∨
          (w * h > 0 ∧ src < dst + 2 * w * h ∧ dst < src + 2 * w * h)
      then .next (s.raise .arg) else .next (s.accept (.rotate angle))

/-- ROTATE's result at completion is `{nh, nw}`, and a rejected ROTATE leaves RESULT1
(44_raster_blit_rotate R380). -/
def Obligations.RotateResultIsNewSize : Prop :=
  (∀ (s : State) (j : Job) (angle : BitVec 16), s.eng = .exec j → j.cmd = .rotate angle →
    (j.ops s.width s.height).length ≤ j.k →
    let w := j.a1.extractLsb' 0 16
    let h := j.a1.extractLsb' 16 16
    s.engineTurn = { s with
      result1 := if angle = 90 ∨ angle = 270 then w ++ h else h ++ w
      eng := .idle }) ∧
  (∀ (s t : State) (angle : BitVec 16), exec (.rotate angle) s = .next t →
    t ≠ s.accept (.rotate angle) → t.result1 = s.result1)

/-! ### The engine -/

/-- The clear zeroes every pixel of the Framebuffer Store and ends; nothing else changes
(45_lifecycle R405). -/
def Obligations.ClearZeroesStore : Prop :=
  ∀ s : State, s.eng = .clearing 0 →
    ∃ m : Memory, s.engineRun (s.width * s.height + 1) = { s with fb := m, eng := .idle } ∧
      (∀ x y, inb s.width s.height x y → { s with fb := m }.pix x y = 0) ∧
      ∀ a, s.storeBytes ≤ a → { s with fb := m }.byteAt .fb a = s.byteAt .fb a

/-- The order in which each command's operations are listed, which is that in which the engine performs
them, progress k naming the k-th (42_raster_fill R284; `EngineCompletes`). FILL, FILL_RECT, RECT, HLINE
and VLINE write pixels in row-major order, each at most once, and the engine's turn writes the next of
them and no other (R288). LINE writes the points of its list in their order, those outside left out
(43_raster_line_pixel R330). BLIT copies the sprite's pixels that land inside the buffer, row-major in
the sprite (44_raster_blit_rotate R360). ROTATE fills its destination row-major (R375). -/
def Obligations.CommandsPerformInOrder : Prop :=
  ∀ (j : Job) (W H : Nat),
    let lo (w : Word) : BitVec 16 := w.extractLsb' 0 16
    let hi (w : Word) : BitVec 16 := w.extractLsb' 16 16
    (∀ color : Pixel,
      (j.cmd = .fill color ∨ j.cmd = .fillRect color ∨ (∃ f, j.cmd = .rect f color) ∨
        j.cmd = .hline color ∨ j.cmd = .vline color) →
      ∃ ps : List (Int × Int), j.ops W H = ps.map (fun p => Op.setPix p.1 p.2 color) ∧
        (ps.Pairwise fun p q => p.2 < q.2 ∨ (p.2 = q.2 ∧ p.1 < q.1)) ∧
        ∀ s : State, s.width = W → s.height = H → s.eng = .exec j →
          (∀ p, ps[j.k]? = some p →
            s.engineTurn =
              { s.setPix p.1 p.2 color with eng := .exec { j with k := j.k + 1, held := none } }) ∧
          (ps[j.k]? = none → s.engineTurn = { s with eng := .idle })) ∧
    (∀ color : Pixel, j.cmd = .line color →
      j.ops W H =
        ((linePoints (lo j.a0).toInt (hi j.a0).toInt (lo j.a1).toInt (hi j.a1).toInt).filter
          fun p => inb W H p.1 p.2).map fun p => Op.setPix p.1 p.2 color) ∧
    (∀ (keyed : Bool) (imm : BitVec 16), j.cmd = .blit keyed imm →
      let x := (lo j.a0).toInt
      let y := (hi j.a0).toInt
      let sw := (lo j.a1).toNat
      let sh := (hi j.a1).toNat
      ∃ ps : List (Nat × Nat),
        (ps.Pairwise fun p q => p.2 < q.2 ∨ (p.2 = q.2 ∧ p.1 < q.1)) ∧
        (∀ p, p ∈ ps ↔ (p.1 < sw ∧ p.2 < sh) ∧ inb W H (x + p.1) (y + p.2)) ∧
        j.ops W H = ps.map fun p =>
          Op.copyS (j.a2.toNat + 2 * (p.2 * sw + p.1)) (x + p.1) (y + p.2)
            (if keyed then some j.key else none)) ∧
    (∀ angle : BitVec 16, j.cmd = .rotate angle → angle ∈ [0, 90, 180, 270] →
      let w := (lo j.a1).toNat
      let h := (hi j.a1).toNat
      let nw := if angle = 90 ∨ angle = 270 then h else w
      let nh := if angle = 90 ∨ angle = 270 then w else h
      (j.ops W H).length = nh * nw ∧
      ∀ xp yp : Nat, xp < nw → yp < nh →
        let sx := if angle = 0 then xp else if angle = 90 then yp
          else if angle = 180 then w - 1 - xp else w - 1 - yp
        let sy := if angle = 0 then yp else if angle = 90 then h - 1 - xp
          else if angle = 180 then h - 1 - yp else xp
        (j.ops W H)[yp * nw + xp]? =
          some (.rotS (j.a2.toNat + 2 * (sy * w + sx)) (j.a3.toNat + 2 * (yp * nw + xp))))

/-- The lists of operations are bounded as 42_raster_fill R285 says. -/
def Obligations.OperationCountsBounded : Prop :=
  ∀ (j : Job) (W H : Nat),
    match j.cmd with
    | .fill _ | .fillRect _ | .rect _ _ | .hline _ | .vline _ => (j.ops W H).length ≤ W * H
    | .line _ => (j.ops W H).length ≤ 65536
    | .pixelSet _ | .pixelGet _ => (j.ops W H).length ≤ 1
    | .blit _ _ =>
      (j.ops W H).length ≤
        min ((j.a1.extractLsb' 0 16).toNat * (j.a1.extractLsb' 16 16).toNat) (W * H)
    | .rotate _ =>
      (j.ops W H).length = (j.a1.extractLsb' 0 16).toNat * (j.a1.extractLsb' 16 16).toNat
    | .init _ | .run _ | .deinit _ => j.ops W H = []

/-- No command reads or writes a pixel outside `[0, W) x [0, H)` (42_raster_fill R286). -/
def Obligations.OperationsStayInside : Prop :=
  ∀ (j : Job) (W H : Nat), ∀ op ∈ j.ops W H,
    match op with
    | .setPix x y _ | .getPix x y | .copyS _ x y _ => inb W H x y
    | .rotS _ _ => True

/-- FB bytes at offsets `>= 2*W*H` are never written by any agent (10_state R73): a step that does not
make FB unspecified leaves them. -/
def Obligations.BytesAboveStoreKept : Prop :=
  ∀ s t : State, step s = .next t → t.fbEpoch = s.fbEpoch →
    ∀ a, s.storeBytes ≤ a → t.byteAt .fb a = s.byteAt .fb a

/-- One turn of the engine is one event: the next pixel of the clear (45_lifecycle R405); of a command
at progress k the operation k, after which progress is k + 1, the read and the write of a CopyS or RotS
being turns of their own (log entry 4, DEDUCED from 42_raster_fill R284); at the end of the list the
result register and Idle (RESULT1: `RotateResultIsNewSize`). Nothing else changes. So the engine, taking
turns, completes any clear and any command, within two turns an operation (R285). The n turns of
`engineRun` are n steps of the machine in which the engine moves. -/
def Obligations.EngineCompletes : Prop :=
  ∀ s : State,
    (∀ (n : Nat) (rest : List Agent), s.turns = List.replicate n .engine ++ rest →
      s.stepRun n = .next { s.engineRun n with turns := rest }) ∧
    (∀ n, s.eng = .clearing n →
      (n < s.width * s.height → s.engineTurn =
        { s.setPix ((n % s.width : Nat) : Int) ((n / s.width : Nat) : Int) 0x0000 with
          eng := .clearing (n + 1) }) ∧
      (¬n < s.width * s.height → s.engineTurn = { s with eng := .idle }) ∧
      ∃ m ≤ s.width * s.height - n + 1, (s.engineRun m).eng = .idle) ∧
    (∀ j, s.eng = .exec j →
      (∀ op, (j.ops s.width s.height)[j.k]? = some op →
        let next := Engine.exec { j with k := j.k + 1, held := none }
        s.engineTurn = match op, j.held with
          | .setPix x y v, _ => { s.setPix x y v with eng := next }
          | .getPix x y, _ =>
            { s with eng := .exec { j with k := j.k + 1, held := some (s.pix x y) } }
          | .copyS src _ _ skip, none =>
            if skip = some (s.sPix src) then { s with eng := next }
            else { s with eng := .exec { j with held := some (s.sPix src) } }
          | .copyS _ x y _, some v => { s.setPix x y v with eng := next }
          | .rotS src _, none => { s with eng := .exec { j with held := some (s.sPix src) } }
          | .rotS _ dst, some v => { s.setSPix dst v with eng := next }) ∧
      ((j.ops s.width s.height)[j.k]? = none →
        match j.cmd with
        | .pixelGet _ => s.engineTurn =
            { s with eng := .idle, result0 := (j.held.map (BitVec.setWidth 32)).getD 0xFFFFFFFF }
        | .rotate _ => s.engineTurn = { s with eng := .idle, result1 := s.engineTurn.result1 }
        | _ => s.engineTurn = { s with eng := .idle }) ∧
      ∃ m ≤ 2 * ((j.ops s.width s.height).length - j.k) + 1, (s.engineRun m).eng = .idle)

/-! ### Who changes what -/

/-- The host is the only agent that writes registers; the scan changes the position and emits; the
engine changes FB, SCR, the RESULT registers and ENG (10_state R30). The host never writes a RESULT
register, what was emitted, or the build, and what is on the panel signals only with STATE. -/
def Obligations.AgentsChangeOnlyTheirOwn : Prop :=
  ∀ s t : State, step s = .next t →
    t.build = s.build ∧
    (s.nextAgent = .scan →
      t = { s.turnTaken with
        hcnt := t.hcnt, vcnt := t.vcnt, emitted := t.emitted, panel := t.panel } ∧
      (s.drv ≠ .running → t = s.turnTaken)) ∧
    (s.nextAgent = .engine →
      t = { s.turnTaken with
        eng := t.eng, fb := t.fb, scr := t.scr, result0 := t.result0, result1 := t.result1 } ∧
      (s.eng = .idle → t = s.turnTaken)) ∧
    (s.nextAgent = .host →
      t.result0 = s.result0 ∧ t.result1 = s.result1 ∧ t.emitted = s.emitted ∧
      t.scrEpoch = s.scrEpoch ∧
      (t.drv = s.drv → t.route = s.route ∧ t.hcnt = s.hcnt ∧ t.vcnt = s.vcnt ∧
        t.panel = s.panel ∧ t.fbEpoch = s.fbEpoch))

/-- RESULT0 changes only when the engine completes a PIXEL_GET, RESULT1 only when it completes a
ROTATE, or at reset (10_state R61). -/
def Obligations.ResultsChangeOnlyAtCompletion : Prop :=
  ∀ s t : State, step s = .next t → s.nextAgent ≠ .reset →
    (t.result0 ≠ s.result0 → s.nextAgent = .engine ∧ t.eng = .idle ∧
      ∃ j imm, s.eng = .exec j ∧ j.cmd = .pixelGet imm) ∧
    (t.result1 ≠ s.result1 → s.nextAgent = .engine ∧ t.eng = .idle ∧
      ∃ j angle, s.eng = .exec j ∧ j.cmd = .rotate angle)

/-! ### The scan and the pads -/

/-- One scan step: it puts its tuple on the panel signals and advances (41_timing_generator R235,
R236). -/
def Obligations.ScanStepEmitsAndAdvances : Prop :=
  ∀ s : State,
    let ha0 := s.hsw.toNat + s.hbp.toNat
    let va0 := s.vsw.toNat + s.vbp.toNat
    let htotal := ha0 + s.resW.toNat + s.hfp.toNat
    let vtotal := va0 + s.resH.toNat + s.vfp.toNat
    let de := (ha0 ≤ s.hcnt ∧ s.hcnt < ha0 + s.resW.toNat) ∧
      (va0 ≤ s.vcnt ∧ s.vcnt < va0 + s.resH.toNat)
    (s.drv ≠ .running → s.scanTurn = s) ∧
    (s.drv = .running → ∃ o : PanelOut,
      s.scanTurn = { s with
        emitted := o :: s.emitted
        panel := some o
        hcnt := if s.hcnt + 1 = htotal then 0 else s.hcnt + 1
        vcnt := if s.hcnt + 1 = htotal then (if s.vcnt + 1 = vtotal then 0 else s.vcnt + 1)
          else s.vcnt } ∧
      (s.hcnt < s.hsw.toNat → o.hs = s.pol.getLsbD 0) ∧
      (¬s.hcnt < s.hsw.toNat → o.hs = !s.pol.getLsbD 0) ∧
      (s.vcnt < s.vsw.toNat → o.vs = s.pol.getLsbD 1) ∧
      (¬s.vcnt < s.vsw.toNat → o.vs = !s.pol.getLsbD 1) ∧
      (de → o.de = s.pol.getLsbD 2 ∧ o.d = s.pix (s.hcnt - ha0) (s.vcnt - va0)) ∧
      (¬de → o.de = !s.pol.getLsbD 2 ∧ o.d = 0))

/-- One frame: HTOTAL*VTOTAL scan steps from (0, 0) come back to (0, 0) and emit, for each pixel of
the Framebuffer Store, its value in its active period, DE inactive and D = 0 in every other period
(41_timing_generator R232, R233, R236, R244). The n turns of `scanRun` are n steps of the machine in which
the scan moves. -/
def Obligations.FrameShowsEveryPixelOnce : Prop :=
  (∀ (s : State) (n : Nat) (rest : List Agent), s.turns = List.replicate n .scan ++ rest →
    s.stepRun n = .next { s.scanRun n with turns := rest }) ∧
  ∀ s : State, s.drv = .running → s.hcnt = 0 → s.vcnt = 0 → s.hsw ≠ 0 → s.vsw ≠ 0 →
    ∃ frame : List PanelOut,
      s.scanRun (s.htotal * s.vtotal) =
        { s with emitted := frame.reverse ++ s.emitted, panel := frame.getLast? } ∧
      frame.length = s.htotal * s.vtotal ∧
      (∀ x y : Nat, x < s.width → y < s.height →
        ∃ o, frame[(s.va0 + y) * s.htotal + (s.ha0 + x)]? = some o ∧
          o.de = s.depol ∧ o.d = s.pix x y) ∧
      (∀ (h v : Nat) (o : PanelOut), h < s.htotal → v < s.vtotal →
        ¬((s.ha0 ≤ h ∧ h < s.ha0 + s.width) ∧ (s.va0 ≤ v ∧ v < s.va0 + s.height)) →
        frame[v * s.htotal + h]? = some o → o.de = !s.depol ∧ o.d = 0)

/-- The levels of PCLK, HS, VS, DE and D outside RUNNING (41_timing_generator R241). -/
def Obligations.IdleLevels : Prop :=
  ∀ (s : State) (h : Half), s.drv ≠ .running →
    s.level h 5 = s.pol.getLsbD 3 ∧ s.level h 6 = !s.pol.getLsbD 0 ∧
    s.level h 7 = !s.pol.getLsbD 1 ∧ s.level h 8 = !s.pol.getLsbD 2 ∧
    ∀ i : Fin 25, 9 ≤ i.val → s.level h i = false

/-- HS, VS, DE and D change only at the start of a pixel period: in RUNNING a scan step puts its tuple
on the panel signals, and no step of another agent changes the level of a timing signal, whatever it
writes to FB (00_scope R12, 41_timing_generator R237, R240). It is said of states that meet the
invariant. -/
def Obligations.PanelSignalsHeldForPeriod : Prop :=
  ∀ s t : State, s.Inv → step s = .next t → s.drv = .running → t.drv = .running →
    (s.nextAgent = .scan →
      t.panelOut = s.periodOut ∧ t.emitted = s.periodOut :: s.emitted) ∧
    (s.nextAgent ≠ .scan →
      t.panelOut = s.panelOut ∧
      ∀ (h : Half) (i : Fin 25), 5 ≤ i.val → t.level h i = s.level h i)

/-- Pads: a pad is driven iff the block is out of UNINIT and a signal is routed to it; each routed
signal's level is on its pad. The levels: GPIO's bits, and in RUNNING PCLK by halves and the current
step's HS, VS, DE and, for D_k, bit k of its pixel (40_pins R201, R202, 41_timing_generator R237, R240,
R245). Before the first step after RUN the current step is that of (0, 0), with both syncs active, DE
inactive and D = 0 (R242; log entry 13, DEDUCED). -/
def Obligations.PadsFollowRouting : Prop :=
  ∀ s : State,
    (∀ p, s.padOE p = true ↔
      p < s.build.npads ∧ s.drv ≠ .uninit ∧ ∃ i : Fin 25, s.route[i].toNat = p) ∧
    (∀ (t : Nat) (h : Half) (i : Fin 25), s.drv ≠ .uninit →
      pinsComplete s.build.npads s.route → s.route[i] ≠ 0xFF →
      s.padOut t h s.route[i].toNat = s.level h i) ∧
    (∀ (h : Half) (i : Fin 25), i.val < 5 → s.level h i = s.gpio.getLsbD i.val) ∧
    (s.drv = .running →
      s.level .first 5 = s.pol.getLsbD 3 ∧ s.level .second 5 = !s.pol.getLsbD 3 ∧
      (∀ (o : PanelOut) (h : Half), s.panel = some o →
        s.level h 6 = o.hs ∧ s.level h 7 = o.vs ∧ s.level h 8 = o.de ∧
        ∀ i : Fin 25, 9 ≤ i.val → s.level h i = o.d.getLsbD (i.val - 9)) ∧
      (s.Inv → s.panel = none → ∀ h : Half,
        s.level h 6 = s.pol.getLsbD 0 ∧ s.level h 7 = s.pol.getLsbD 1 ∧
        s.level h 8 = !s.pol.getLsbD 2 ∧ ∀ i : Fin 25, 9 ≤ i.val → s.level h i = false))

/-- SIGSTATE: bit i reads the level on signal i's pad, 0 where it is not routed or the block is in
UNINIT; bits 31:9 read 0 (10_state R43). -/
def Obligations.SigstateReadsDrivenLevels : Prop :=
  ∀ (s : State) (h : Half),
    (∀ i : Fin 25, i.val < 9 →
      ((s.drv ≠ .uninit ∧ s.route[i] ≠ 0xFF) → (s.sigstate h).getLsbD i.val = s.level h i) ∧
      (¬(s.drv ≠ .uninit ∧ s.route[i] ≠ 0xFF) → (s.sigstate h).getLsbD i.val = false)) ∧
    ∀ n, 9 ≤ n → (s.sigstate h).getLsbD n = false

/-! ### Lifecycle -/

/-- STATUS: STATE's code in bits 1:0, BUSY in bit 2, CLEARING in bit 3, 0 above (10_state R38). -/
def Obligations.StatusFields : Prop :=
  ∀ s : State,
    (s.status.extractLsb' 0 2 = match s.drv with
      | .uninit => 0 | .initializing => 1 | .running => 2 | .stopped => 3) ∧
    (s.status.getLsbD 2 = true ↔ ∃ j, s.eng = .exec j) ∧
    (s.status.getLsbD 3 = true ↔ ∃ n, s.eng = .clearing n) ∧
    ∀ n, 4 ≤ n → s.status.getLsbD n = false

/-- STATE changes only by reset or by a CTRL write, and only along the table's transitions
(10_state R38, 45_lifecycle R399). -/
def Obligations.StateChangesOnlyByCtrlOrReset : Prop :=
  ∀ s t : State, step s = .next t → t.drv ≠ s.drv →
    (s.nextAgent = .reset ∧ t.drv = .uninit) ∨
    (s.nextAgent = .host ∧ (∃ v q, s.hostQueue = .txn (.write 0x000 .b4 v) :: q) ∧
      (((s.drv = .uninit ∨ s.drv = .stopped) ∧ t.drv = .initializing) ∨
        (s.drv = .initializing ∧ t.drv = .running) ∨
        ((s.drv = .initializing ∨ s.drv = .running) ∧ t.drv = .stopped)))

/-- Only reset returns the block to UNINIT, and only reset drops every pad once INIT was accepted
(70_reset_and_hazards R503). The second clause is about states that meet the invariant. -/
def Obligations.OnlyResetReturnsToUninit : Prop :=
  ∀ s t : State, step s = .next t → s.nextAgent ≠ .reset → s.drv ≠ .uninit →
    t.drv ≠ .uninit ∧ (s.Inv → ∃ p, t.padOE p = true)

/-- CTRL INIT (45_lifecycle R400). -/
def Obligations.InitAction : Prop :=
  ∀ (s : State) (rsv : BitVec 29),
    ((s.drv = .initializing ∨ s.drv = .running) → exec (.init rsv) s = .next (s.raise .state)) ∧
    ((s.drv = .uninit ∨ s.drv = .stopped) → s.configInvalid = true →
      exec (.init rsv) s = .next (s.raise .cfg)) ∧
    ((s.drv = .uninit ∨ s.drv = .stopped) → s.configInvalid = false →
      exec (.init rsv) s =
        .next { s with route := s.pin, drv := .initializing, eng := .clearing 0 })

/-- `config_invalid()` (45_lifecycle R401). -/
def Obligations.ConfigInvalidExactly : Prop :=
  ∀ s : State, s.configInvalid = true ↔
    ((s.resH ++ s.resW : Word) = 0 ∨
      (∃ i : Fin 25, i ≠ 4 ∧ s.pin[i] = 0xFF) ∨
      ∃ i j : Fin 25, i ≠ j ∧ s.pin[i] = s.pin[j] ∧ s.pin[j] ≠ 0xFF)

/-- CTRL RUN (45_lifecycle R410). That no tuple is held yet is the model's own field (log entry 13). -/
def Obligations.RunAction : Prop :=
  ∀ (s : State) (rsv : BitVec 29),
    (s.drv ≠ .initializing → exec (.run rsv) s = .next (s.raise .state)) ∧
    (s.drv = .initializing → s.eng ≠ .idle → exec (.run rsv) s = .next (s.raise .busy)) ∧
    (s.drv = .initializing → s.eng = .idle →
      exec (.run rsv) s = .next { s with drv := .running, hcnt := 0, vcnt := 0, panel := none })

/-- CTRL DEINIT: a clear is abandoned, the scan stops, FB content becomes unspecified: each of its
bytes is a free value anew (45_lifecycle R415). Three clauses rest on the model's own fields and
choices: the new epoch of the FB draws (log entry 5, DESIGN CHOICE for the form), that (hcnt, vcnt) is
as before (log entry 11, DESIGN CHOICE; 93_implementation_defined U12 calls it any value) and that no
tuple is held (log entry 13). -/
def Obligations.DeinitAction : Prop :=
  ∀ (s : State) (rsv : BitVec 29),
    ((s.drv = .uninit ∨ s.drv = .stopped) → exec (.deinit rsv) s = .next (s.raise .state)) ∧
    ((s.drv = .initializing ∨ s.drv = .running) → (∃ j, s.eng = .exec j) →
      exec (.deinit rsv) s = .next (s.raise .busy)) ∧
    ((s.drv = .initializing ∨ s.drv = .running) → (¬∃ j, s.eng = .exec j) →
      ∃ t, exec (.deinit rsv) s = .next t ∧
        t = { s with
          drv := .stopped, eng := .idle, panel := none, fb := t.fb, fbEpoch := s.fbEpoch + 1 } ∧
        (∀ a, t.byteAt .fb a = Config.fbDraw t.fbEpoch a) ∧ t.scanTurn = t)

/-! ### Errors -/

/-- A rejected transaction changes nothing but one ERR flag, and not even ERR where that flag is set
already; a rejected read returns 0 (60_exceptions R460, R463, R466). A transaction is rejected where,
for some value `e` of ERR, it sets a flag that `e` lacks; then it sets that one flag whatever ERR held. -/
def Obligations.RejectionIsPrecise : Prop :=
  (∀ (s t : State) (a : BitVec 22) (n : Size) (v : Word) (e : BitVec 6),
    { s with err := e }.write a n v = .next t → t.err &&& ~~~e ≠ 0 →
    ∃ f : ErrFlag, ∀ e' : BitVec 6, { s with err := e' }.write a n v =
      .next { s with err := e' ||| BitVec.twoPow 6 f.bit }) ∧
  (∀ (s : State) (a : BitVec 22) (n : Size) (e : BitVec 6), ({ s with err := e }.read a n).err ≠ e →
    ∃ f : ErrFlag, ∀ e' : BitVec 6, { s with err := e' }.read a n =
      { s with err := e' ||| BitVec.twoPow 6 f.bit, rdata := 0 })

/-- A flag stays set until the host writes 1 to its ERR bit or reset; clearing is accepted in every
state and has no other effect (60_exceptions R467, 10_state R39). -/
def Obligations.ErrFlagsAreSticky : Prop :=
  (∀ (s t : State) (k : Nat), step s = .next t → s.err.getLsbD k = true → t.err.getLsbD k = false →
    s.nextAgent = .reset ∨
    (s.nextAgent = .host ∧
      ∃ v q, s.hostQueue = .txn (.write 0x008 .b4 v) :: q ∧ v.getLsbD k = true)) ∧
  (∀ (s : State) (v : Word),
    s.write 0x008 .b4 v = .next { s with err := s.err &&& ~~~(v.extractLsb' 0 6) })

/-! ### Registers and windows -/

/-- The register window takes only aligned 4-byte accesses (20_memory R107); reserved offsets and
regions, read-only registers, write-only registers and locks (10_state R35, R36(a), (b), (c), (e), (f),
20_memory R101). -/
def Obligations.RegisterAccessRules : Prop :=
  ∀ (s : State) (v : Word),
    (∀ (a : BitVec 22) (n : Size), a.toNat < 0x1000 → (n ≠ .b4 ∨ a.toNat % 4 ≠ 0) →
      s.write a n v = .next (s.raise .addr) ∧ s.read a n = { s.raise .addr with rdata := 0 }) ∧
    (∀ a : BitVec 22, ((0x1000 ≤ a.toNat ∧ a.toNat < 0x100000) ∨ 0x300000 ≤ a.toNat ∨
        (a.toNat < 0x1000 ∧ ∀ r : Reg, r.offset ≠ a.toNat)) → ∀ n,
      s.write a n v = .next (s.raise .addr) ∧ s.read a n = s.rejectRead .addr) ∧
    (∀ r ∈ [Reg.status, .sigstate, .result0, .result1, .colorOut, .cap0, .cap1, .cap2],
      s.write (BitVec.ofNat 22 r.offset) .b4 v = .next (s.raise .addr)) ∧
    (∀ r ∈ [Reg.ctrl, .cmd], s.read (BitVec.ofNat 22 r.offset) .b4 = { s with rdata := 0 }) ∧
    (∀ r : Reg, (r = .res ∨ ∃ i, r = .pin i) → (s.drv = .initializing ∨ s.drv = .running) →
      s.write (BitVec.ofNat 22 r.offset) .b4 v = .next (s.raise .state)) ∧
    (∀ r ∈ [Reg.hsw, .hbp, .hfp, .vsw, .vbp, .vfp, .pclkdiv, .pol], s.drv = .running →
      s.write (BitVec.ofNat 22 r.offset) .b4 v = .next (s.raise .state))

/-- What a bus read of each register returns, in every state, reserved bits 0, nothing of the block
changing (10_state R35 to R66, 20_memory R111). SIGSTATE reads the driven levels; in RUNNING its PCLK bit
is that of either half of the period, the draw of log entry 6, which the read takes. -/
def Obligations.RegisterReadValues : Prop :=
  ∀ s : State,
    (∀ av ∈ ([(0x000, 0), (0x004, s.status), (0x008, s.err.setWidth 32), (0x00C, s.resH ++ s.resW),
        (0x010, s.gpio.setWidth 32), (0x020, s.hsw.setWidth 32), (0x024, s.hbp.setWidth 32),
        (0x028, s.hfp.setWidth 32), (0x02C, s.vsw.setWidth 32), (0x030, s.vbp.setWidth 32),
        (0x034, s.vfp.setWidth 32), (0x038, s.pclkdiv.setWidth 32), (0x03C, s.pol.setWidth 32),
        (0x040, 0), (0x044, s.arg0), (0x048, s.arg1), (0x04C, s.arg2), (0x050, s.arg3),
        (0x054, s.result0), (0x058, s.result1), (0x05C, s.key.setWidth 32),
        (0x060, s.colorIn.setWidth 32), (0x064, (rgb565 s.colorIn).setWidth 32),
        (0x068, BitVec.ofNat 32 s.build.fbBytes), (0x06C, BitVec.ofNat 32 s.build.scrBytes),
        (0x070, (BitVec.ofNat 8 s.build.npads).setWidth 32)] : List (BitVec 22 × Word)),
      s.read av.1 .b4 = { s with rdata := av.2 }) ∧
    (∀ i : Fin 25, s.read (BitVec.ofNat 22 (0x100 + 4 * i.val)) .b4 =
      { s with rdata := s.pin[i].setWidth 32 }) ∧
    (s.drv ≠ .running → ∀ h : Half, s.read 0x014 .b4 = { s with rdata := s.sigstate h }) ∧
    (s.drv = .running → ∃ h : Half,
      s.read 0x014 .b4 = { s with rdata := s.sigstate h, pclkDraws := s.pclkDraws + 1 })

/-- A legal write to a read/write register that its lock lets through changes that register and nothing
else, and reads back, reserved bits as 0 (70_reset_and_hazards R525, 10_state R36(d), R36(f)). -/
def Obligations.RegisterWriteReadsBack : Prop :=
  ∀ (s : State) (v : Word),
    let half := v.extractLsb' 0 16
    ∀ rm ∈ ([(.gpio, 0x1F, { s with gpio := v.extractLsb' 0 5 }),
        (.hsw, 0xFFFF, { s with hsw := half }), (.hbp, 0xFFFF, { s with hbp := half }),
        (.hfp, 0xFFFF, { s with hfp := half }), (.vsw, 0xFFFF, { s with vsw := half }),
        (.vbp, 0xFFFF, { s with vbp := half }), (.vfp, 0xFFFF, { s with vfp := half }),
        (.pclkdiv, 0xFFFF, { s with pclkdiv := half }), (.pol, 0xF, { s with pol := v.extractLsb' 0 4 }),
        (.arg0, 0xFFFFFFFF, { s with arg0 := v }), (.arg1, 0xFFFFFFFF, { s with arg1 := v }),
        (.arg2, 0xFFFFFFFF, { s with arg2 := v }), (.arg3, 0xFFFFFFFF, { s with arg3 := v }),
        (.key, 0xFFFF, { s with key := half }),
        (.colorIn, 0xFFFFFF, { s with colorIn := v.extractLsb' 0 24 }),
        (.res, 0xFFFFFFFF, { s with resW := half, resH := v.extractLsb' 16 16 })] :
          List (Reg × Word × State)) ++
        (List.finRange 25).map
          (fun i => (.pin i, 0xFF, { s with pin := s.pin.set i (v.extractLsb' 0 8) })),
      ((rm.1 = .res ∨ ∃ i, rm.1 = .pin i) → s.drv = .uninit ∨ s.drv = .stopped) →
      (rm.1 ∈ [Reg.hsw, .hbp, .hfp, .vsw, .vbp, .vfp, .pclkdiv, .pol] → s.drv ≠ .running) →
      ((rm.1 = .hsw ∨ rm.1 = .vsw) → half ≠ 0) →
      (rm.1 = .res → resLegal s.build.fbBytes v) →
      ((∃ i, rm.1 = .pin i) → pinLegal s.build.npads v) →
      s.write (BitVec.ofNat 22 rm.1.offset) .b4 v = .next rm.2.2 ∧
        rm.2.2.read (BitVec.ofNat 22 rm.1.offset) .b4 = { rm.2.2 with rdata := v &&& rm.2.1 }

/-- The legal values of RES, HSW, VSW and PIN: any other is rejected with Err(CFG) and the register
keeps its value (10_state R40, R45, R66). -/
def Obligations.ConfigValueChecks : Prop :=
  ∀ (s : State) (v : Word),
    let lo := (v.extractLsb' 0 16).toNat
    let hi := (v.extractLsb' 16 16).toNat
    ((s.drv = .uninit ∨ s.drv = .stopped) → s.write 0x00C .b4 v =
      if (1 ≤ lo ∧ lo ≤ 32767) ∧ (1 ≤ hi ∧ hi ≤ 32767) ∧ 2 * lo * hi ≤ s.build.fbBytes
      then .next { s with resW := v.extractLsb' 0 16, resH := v.extractLsb' 16 16 }
      else .next (s.raise .cfg)) ∧
    (s.drv ≠ .running → s.write 0x020 .b4 v =
      if lo = 0 then .next (s.raise .cfg) else .next { s with hsw := v.extractLsb' 0 16 }) ∧
    (s.drv ≠ .running → s.write 0x02C .b4 v =
      if lo = 0 then .next (s.raise .cfg) else .next { s with vsw := v.extractLsb' 0 16 }) ∧
    ∀ i : Fin 25, (s.drv = .uninit ∨ s.drv = .stopped) →
      s.write (BitVec.ofNat 22 (0x100 + 4 * i.val)) .b4 v =
        if (v.extractLsb' 0 8).toNat < s.build.npads ∨ v.extractLsb' 0 8 = 0xFF
        then .next { s with pin := s.pin.set i (v.extractLsb' 0 8) }
        else .next (s.raise .cfg)

/-- Accesses to the memory windows. FB: alignment, then STATE, then the bound; then the bytes
(20_memory R108). SCR, in every state: alignment, then the bound; then the bytes (R109). -/
def Obligations.MemoryWindowAccess : Prop :=
  ∀ (s : State) (off : Nat) (n : Size) (v : Word), off < 0x100000 →
    let fb := BitVec.ofNat 22 (0x100000 + off)
    let scr := BitVec.ofNat 22 (0x200000 + off)
    s.write fb n v =
      (if off % n.bytes ≠ 0 then .next (s.raise .addr)
       else if s.drv ≠ .running then .next (s.raise .state)
       else if off + n.bytes > 2 * s.width * s.height then .next (s.raise .addr)
       else .next (s.memWrite .fb off ((bytesOfWord v).take n.bytes))) ∧
    s.read fb n =
      (if off % n.bytes ≠ 0 then s.rejectRead .addr
       else if s.drv ≠ .running then s.rejectRead .state
       else if off + n.bytes > 2 * s.width * s.height then s.rejectRead .addr
       else { s with rdata := s.memRead .fb off n }) ∧
    s.write scr n v =
      (if off % n.bytes ≠ 0 then .next (s.raise .addr)
       else if off + n.bytes > s.build.scrBytes then .next (s.raise .addr)
       else .next (s.memWrite .scr off ((bytesOfWord v).take n.bytes))) ∧
    s.read scr n =
      (if off % n.bytes ≠ 0 then s.rejectRead .addr
       else if off + n.bytes > s.build.scrBytes then s.rejectRead .addr
       else { s with rdata := s.memRead .scr off n })

/-- Little-endian windows: after an n-byte write, byte `off + j` holds data bits 8j+7:8j, an n-byte
read of the place returns the written low bits zero-extended, and every other byte of both memories
is as before (20_memory R103). Little-endian pixels: pixel (x, y) of the Framebuffer Store has its bits
7:0 at the byte offset 2*(y*W + x) and its bits 15:8 at the next, is read and written there and nowhere
else, and is what a 2-byte read of the place returns; a 4-byte read returns it in bits 15:0 and the pixel
of the next index in bits 31:16 (R102, R104, 00_scope R12, 10_state R73). Pixels in SCR likewise. -/
def Obligations.WindowsAreLittleEndian : Prop :=
  (∀ (s : State) (sp : Space) (off : Nat) (n : Size) (v : Word),
    let t := s.memWrite sp off (n.dataBytes v)
    (∀ j, j < n.bytes → t.byteAt sp (off + j) = v.extractLsb' (8 * j) 8) ∧
    t.memRead sp off n = BitVec.ofNat 32 (v.toNat % 2 ^ (8 * n.bytes)) ∧
    (∀ a, (a < off ∨ off + n.bytes ≤ a) → t.byteAt sp a = s.byteAt sp a) ∧
    ∀ sp', sp' ≠ sp → ∀ a, t.byteAt sp' a = s.byteAt sp' a) ∧
  (∀ (s : State) (x y : Int) (o : Nat), inb s.width s.height x y →
    (o : Int) = 2 * (y * s.width + x) →
    (s.byteAt .fb o = (s.pix x y).extractLsb' 0 8 ∧
      s.byteAt .fb (o + 1) = (s.pix x y).extractLsb' 8 8) ∧
    s.memRead .fb o .b2 = (s.pix x y).setWidth 32 ∧
    (∀ x' y' : Int, inb s.width s.height x' y' → y' * s.width + x' = y * s.width + x + 1 →
      s.memRead .fb o .b4 = s.pix x' y' ++ s.pix x y) ∧
    ∀ v : Pixel,
      let t := s.setPix x y v
      t = { s with fb := t.fb } ∧
      t.byteAt .fb o = v.extractLsb' 0 8 ∧ t.byteAt .fb (o + 1) = v.extractLsb' 8 8 ∧
      ∀ a, a ≠ o → a ≠ o + 1 → t.byteAt .fb a = s.byteAt .fb a) ∧
  (∀ (s : State) (o : Nat),
    (s.byteAt .scr o = (s.sPix o).extractLsb' 0 8 ∧
      s.byteAt .scr (o + 1) = (s.sPix o).extractLsb' 8 8) ∧
    s.memRead .scr o .b2 = (s.sPix o).setWidth 32 ∧
    ∀ v : Pixel,
      let t := s.setSPix o v
      t = { s with scr := t.scr } ∧
      t.byteAt .scr o = v.extractLsb' 0 8 ∧ t.byteAt .scr (o + 1) = v.extractLsb' 8 8 ∧
      ∀ a, a ≠ o → a ≠ o + 1 → t.byteAt .scr a = s.byteAt .scr a)

/-- The rgb565 conversion keeps the top 5, 6 and 5 bits of the channels (46_color R441), and so
quantizes them as R443 says, with plain and with mid-point decoding. -/
def Obligations.Rgb565KeepsTopBits : Prop :=
  ∀ r g b : BitVec 8,
    let v := rgb565 (r ++ g ++ b)
    let r5 := v.extractLsb' 11 5
    let g6 := v.extractLsb' 5 6
    let b5 := v.extractLsb' 0 5
    (r5 = r.extractLsb' 3 5 ∧ g6 = g.extractLsb' 2 6 ∧ b5 = b.extractLsb' 3 5) ∧
    (8 * r5.toNat ≤ r.toNat ∧ r.toNat ≤ 8 * r5.toNat + 7) ∧
    (4 * g6.toNat ≤ g.toNat ∧ g.toNat ≤ 4 * g6.toNat + 3) ∧
    (8 * b5.toNat ≤ b.toNat ∧ b.toNat ≤ 8 * b5.toNat + 7) ∧
    ((r.toNat : Int) - (8 * r5.toNat + 4)).natAbs ≤ 4 ∧
    ((g.toNat : Int) - (4 * g6.toNat + 2)).natAbs ≤ 2 ∧
    ((b.toNat : Int) - (8 * b5.toNat + 4)).natAbs ≤ 4

/-! ### Reset and invariants -/

/-- Reset, at any time, sets every piece of the block's state to its value of 70_reset_and_hazards
R501; FB and SCR are free values anew; the functions of the state then read as the rule says. The new
epochs of the draws are the model's form of that (log entry 5). -/
def Obligations.ResetValues : Prop :=
  ∀ s : State,
    let t := s.resetTurn
    (t.drv = .uninit ∧ t.err = 0 ∧ t.resW = 0 ∧ t.resH = 0 ∧ t.gpio = 0x09) ∧
    (t.hsw = s.build.defHsw ∧ t.hbp = s.build.defHbp ∧ t.hfp = s.build.defHfp ∧
      t.vsw = s.build.defVsw ∧ t.vbp = s.build.defVbp ∧ t.vfp = s.build.defVfp ∧
      t.pclkdiv = s.build.defPclkdiv ∧ t.pol = 0x4) ∧
    (t.arg0 = 0 ∧ t.arg1 = 0 ∧ t.arg2 = 0 ∧ t.arg3 = 0 ∧ t.result0 = 0 ∧ t.result1 = 0 ∧
      t.key = 0 ∧ t.colorIn = 0) ∧
    (∀ i : Fin 25, t.pin[i] = 0xFF ∧ t.route[i] = 0xFF) ∧
    (t.hcnt = 0 ∧ t.vcnt = 0 ∧ t.eng = .idle) ∧
    (∀ a, t.byteAt .fb a = Config.fbDraw t.fbEpoch a ∧
      t.byteAt .scr a = Config.scrDraw t.scrEpoch a) ∧
    (t.fbEpoch = s.fbEpoch + 1 ∧ t.scrEpoch = s.scrEpoch + 1) ∧
    (∀ p, t.padOE p = false) ∧ t.status = 0 ∧ (∀ h, t.sigstate h = 0) ∧ t.colorOut = 0 ∧
    t.regValue .cap0 = BitVec.ofNat 32 s.build.fbBytes ∧
    t.regValue .cap1 = BitVec.ofNat 32 s.build.scrBytes ∧
    (s.build.legal → t.regValue .cap2 = BitVec.ofNat 32 s.build.npads)

/-- The invariant holds after reset of every legal build. -/
def Obligations.ResetMeetsInvariant : Prop :=
  State.reset.Inv ∧ ∀ b : Params, b.legal → (State.resetOf b).Inv

/-- Every step keeps the invariant: the memories canonical and within their capacity, RES, HSW, VSW and
PIN legal, the routing complete from INIT on and constant while in use, the lifecycle of R423, the
scan position within its frame, the executing job valid. -/
def Obligations.StepKeepsInvariant : Prop :=
  ∀ s t : State, s.Inv → step s = .next t → t.Inv

/-- The invariants of 45_lifecycle R423: every step keeps ENG and STATE in step; the scan emits only
in RUNNING; FB is written only by the clear (INITIALIZING) and the engine and host (RUNNING). -/
def Obligations.LifecycleInvariant : Prop :=
  ∀ s t : State, s.lifecycleOk → step s = .next t →
    t.lifecycleOk ∧
    (t.emitted ≠ s.emitted → s.nextAgent = .scan ∧ s.drv = .running) ∧
    (s.nextAgent = .scan → s.drv = .running → t.emitted = s.periodOut :: s.emitted) ∧
    ((∃ a, t.fbEpoch = s.fbEpoch ∧ t.byteAt .fb a ≠ s.byteAt .fb a) →
      (s.drv = .initializing ∧ s.nextAgent = .engine ∧ s.eng.isClearing = true) ∨
      (s.drv = .running ∧ (s.nextAgent = .engine ∨ s.nextAgent = .host)))

/-- The FB draw is never observed by a program (70_reset_and_hazards R504): two runs that differ only
in unspecified FB bytes stay so step by step, so everything the host reads and the panel is sent is
the same in both. -/
def Obligations.FbDrawNeverObserved : Prop :=
  ∀ s t s' t' : State, s.Inv → sameButUnseenFb s t → step s = .next s' → step t = .next t' →
    sameButUnseenFb s' t' ∧ s'.rdata = t'.rdata ∧ s'.emitted = t'.emitted
end

