-- ==== Sys2Proof/Laws/State.lean ====
section
/-! SUPPORT. What each named update of the state leaves in each field. -/

namespace Sys2Proof.Machine

variable (s : State)

/-! ### raise -/

@[simp] theorem State.raise_build (f : ErrFlag) : (s.raise f).build = s.build := rfl
@[simp] theorem State.raise_drv (f : ErrFlag) : (s.raise f).drv = s.drv := rfl
@[simp] theorem State.raise_err (f : ErrFlag) : (s.raise f).err = errSet f s.err := rfl
@[simp] theorem State.raise_resW (f : ErrFlag) : (s.raise f).resW = s.resW := rfl
@[simp] theorem State.raise_resH (f : ErrFlag) : (s.raise f).resH = s.resH := rfl
@[simp] theorem State.raise_gpio (f : ErrFlag) : (s.raise f).gpio = s.gpio := rfl
@[simp] theorem State.raise_hsw (f : ErrFlag) : (s.raise f).hsw = s.hsw := rfl
@[simp] theorem State.raise_hbp (f : ErrFlag) : (s.raise f).hbp = s.hbp := rfl
@[simp] theorem State.raise_hfp (f : ErrFlag) : (s.raise f).hfp = s.hfp := rfl
@[simp] theorem State.raise_vsw (f : ErrFlag) : (s.raise f).vsw = s.vsw := rfl
@[simp] theorem State.raise_vbp (f : ErrFlag) : (s.raise f).vbp = s.vbp := rfl
@[simp] theorem State.raise_vfp (f : ErrFlag) : (s.raise f).vfp = s.vfp := rfl
@[simp] theorem State.raise_pclkdiv (f : ErrFlag) : (s.raise f).pclkdiv = s.pclkdiv := rfl
@[simp] theorem State.raise_pol (f : ErrFlag) : (s.raise f).pol = s.pol := rfl
@[simp] theorem State.raise_arg0 (f : ErrFlag) : (s.raise f).arg0 = s.arg0 := rfl
@[simp] theorem State.raise_arg1 (f : ErrFlag) : (s.raise f).arg1 = s.arg1 := rfl
@[simp] theorem State.raise_arg2 (f : ErrFlag) : (s.raise f).arg2 = s.arg2 := rfl
@[simp] theorem State.raise_arg3 (f : ErrFlag) : (s.raise f).arg3 = s.arg3 := rfl
@[simp] theorem State.raise_result0 (f : ErrFlag) : (s.raise f).result0 = s.result0 := rfl
@[simp] theorem State.raise_result1 (f : ErrFlag) : (s.raise f).result1 = s.result1 := rfl
@[simp] theorem State.raise_key (f : ErrFlag) : (s.raise f).key = s.key := rfl
@[simp] theorem State.raise_colorIn (f : ErrFlag) : (s.raise f).colorIn = s.colorIn := rfl
@[simp] theorem State.raise_pin (f : ErrFlag) : (s.raise f).pin = s.pin := rfl
@[simp] theorem State.raise_route (f : ErrFlag) : (s.raise f).route = s.route := rfl
@[simp] theorem State.raise_hcnt (f : ErrFlag) : (s.raise f).hcnt = s.hcnt := rfl
@[simp] theorem State.raise_vcnt (f : ErrFlag) : (s.raise f).vcnt = s.vcnt := rfl
@[simp] theorem State.raise_eng (f : ErrFlag) : (s.raise f).eng = s.eng := rfl
@[simp] theorem State.raise_fb (f : ErrFlag) : (s.raise f).fb = s.fb := rfl
@[simp] theorem State.raise_scr (f : ErrFlag) : (s.raise f).scr = s.scr := rfl
@[simp] theorem State.raise_fbEpoch (f : ErrFlag) : (s.raise f).fbEpoch = s.fbEpoch := rfl
@[simp] theorem State.raise_scrEpoch (f : ErrFlag) : (s.raise f).scrEpoch = s.scrEpoch := rfl
@[simp] theorem State.raise_pclkDraws (f : ErrFlag) : (s.raise f).pclkDraws = s.pclkDraws := rfl
@[simp] theorem State.raise_turnDraws (f : ErrFlag) : (s.raise f).turnDraws = s.turnDraws := rfl
@[simp] theorem State.raise_rdata (f : ErrFlag) : (s.raise f).rdata = s.rdata := rfl
@[simp] theorem State.raise_emitted (f : ErrFlag) : (s.raise f).emitted = s.emitted := rfl
@[simp] theorem State.raise_panel (f : ErrFlag) : (s.raise f).panel = s.panel := rfl
@[simp] theorem State.raise_hostQueue (f : ErrFlag) : (s.raise f).hostQueue = s.hostQueue := rfl
@[simp] theorem State.raise_turns (f : ErrFlag) : (s.raise f).turns = s.turns := rfl

/-! ### rejectRead -/

@[simp] theorem State.rejectRead_build (f : ErrFlag) : (s.rejectRead f).build = s.build := rfl
@[simp] theorem State.rejectRead_drv (f : ErrFlag) : (s.rejectRead f).drv = s.drv := rfl
@[simp] theorem State.rejectRead_err (f : ErrFlag) : (s.rejectRead f).err = errSet f s.err := rfl
@[simp] theorem State.rejectRead_resW (f : ErrFlag) : (s.rejectRead f).resW = s.resW := rfl
@[simp] theorem State.rejectRead_resH (f : ErrFlag) : (s.rejectRead f).resH = s.resH := rfl
@[simp] theorem State.rejectRead_gpio (f : ErrFlag) : (s.rejectRead f).gpio = s.gpio := rfl
@[simp] theorem State.rejectRead_hsw (f : ErrFlag) : (s.rejectRead f).hsw = s.hsw := rfl
@[simp] theorem State.rejectRead_hbp (f : ErrFlag) : (s.rejectRead f).hbp = s.hbp := rfl
@[simp] theorem State.rejectRead_hfp (f : ErrFlag) : (s.rejectRead f).hfp = s.hfp := rfl
@[simp] theorem State.rejectRead_vsw (f : ErrFlag) : (s.rejectRead f).vsw = s.vsw := rfl
@[simp] theorem State.rejectRead_vbp (f : ErrFlag) : (s.rejectRead f).vbp = s.vbp := rfl
@[simp] theorem State.rejectRead_vfp (f : ErrFlag) : (s.rejectRead f).vfp = s.vfp := rfl
@[simp] theorem State.rejectRead_pclkdiv (f : ErrFlag) : (s.rejectRead f).pclkdiv = s.pclkdiv := rfl
@[simp] theorem State.rejectRead_pol (f : ErrFlag) : (s.rejectRead f).pol = s.pol := rfl
@[simp] theorem State.rejectRead_arg0 (f : ErrFlag) : (s.rejectRead f).arg0 = s.arg0 := rfl
@[simp] theorem State.rejectRead_arg1 (f : ErrFlag) : (s.rejectRead f).arg1 = s.arg1 := rfl
@[simp] theorem State.rejectRead_arg2 (f : ErrFlag) : (s.rejectRead f).arg2 = s.arg2 := rfl
@[simp] theorem State.rejectRead_arg3 (f : ErrFlag) : (s.rejectRead f).arg3 = s.arg3 := rfl
@[simp] theorem State.rejectRead_result0 (f : ErrFlag) : (s.rejectRead f).result0 = s.result0 := rfl
@[simp] theorem State.rejectRead_result1 (f : ErrFlag) : (s.rejectRead f).result1 = s.result1 := rfl
@[simp] theorem State.rejectRead_key (f : ErrFlag) : (s.rejectRead f).key = s.key := rfl
@[simp] theorem State.rejectRead_colorIn (f : ErrFlag) : (s.rejectRead f).colorIn = s.colorIn := rfl
@[simp] theorem State.rejectRead_pin (f : ErrFlag) : (s.rejectRead f).pin = s.pin := rfl
@[simp] theorem State.rejectRead_route (f : ErrFlag) : (s.rejectRead f).route = s.route := rfl
@[simp] theorem State.rejectRead_hcnt (f : ErrFlag) : (s.rejectRead f).hcnt = s.hcnt := rfl
@[simp] theorem State.rejectRead_vcnt (f : ErrFlag) : (s.rejectRead f).vcnt = s.vcnt := rfl
@[simp] theorem State.rejectRead_eng (f : ErrFlag) : (s.rejectRead f).eng = s.eng := rfl
@[simp] theorem State.rejectRead_fb (f : ErrFlag) : (s.rejectRead f).fb = s.fb := rfl
@[simp] theorem State.rejectRead_scr (f : ErrFlag) : (s.rejectRead f).scr = s.scr := rfl
@[simp] theorem State.rejectRead_fbEpoch (f : ErrFlag) : (s.rejectRead f).fbEpoch = s.fbEpoch := rfl
@[simp] theorem State.rejectRead_scrEpoch (f : ErrFlag) : (s.rejectRead f).scrEpoch = s.scrEpoch := rfl
@[simp] theorem State.rejectRead_pclkDraws (f : ErrFlag) : (s.rejectRead f).pclkDraws = s.pclkDraws := rfl
@[simp] theorem State.rejectRead_turnDraws (f : ErrFlag) : (s.rejectRead f).turnDraws = s.turnDraws := rfl
@[simp] theorem State.rejectRead_rdata (f : ErrFlag) : (s.rejectRead f).rdata = 0 := rfl
@[simp] theorem State.rejectRead_emitted (f : ErrFlag) : (s.rejectRead f).emitted = s.emitted := rfl
@[simp] theorem State.rejectRead_panel (f : ErrFlag) : (s.rejectRead f).panel = s.panel := rfl
@[simp] theorem State.rejectRead_hostQueue (f : ErrFlag) : (s.rejectRead f).hostQueue = s.hostQueue := rfl
@[simp] theorem State.rejectRead_turns (f : ErrFlag) : (s.rejectRead f).turns = s.turns := rfl

/-! ### clearErr -/

@[simp] theorem State.clearErr_build (v : Word) : (s.clearErr v).build = s.build := rfl
@[simp] theorem State.clearErr_drv (v : Word) : (s.clearErr v).drv = s.drv := rfl
@[simp] theorem State.clearErr_err (v : Word) : (s.clearErr v).err = errClear v s.err := rfl
@[simp] theorem State.clearErr_resW (v : Word) : (s.clearErr v).resW = s.resW := rfl
@[simp] theorem State.clearErr_resH (v : Word) : (s.clearErr v).resH = s.resH := rfl
@[simp] theorem State.clearErr_gpio (v : Word) : (s.clearErr v).gpio = s.gpio := rfl
@[simp] theorem State.clearErr_hsw (v : Word) : (s.clearErr v).hsw = s.hsw := rfl
@[simp] theorem State.clearErr_hbp (v : Word) : (s.clearErr v).hbp = s.hbp := rfl
@[simp] theorem State.clearErr_hfp (v : Word) : (s.clearErr v).hfp = s.hfp := rfl
@[simp] theorem State.clearErr_vsw (v : Word) : (s.clearErr v).vsw = s.vsw := rfl
@[simp] theorem State.clearErr_vbp (v : Word) : (s.clearErr v).vbp = s.vbp := rfl
@[simp] theorem State.clearErr_vfp (v : Word) : (s.clearErr v).vfp = s.vfp := rfl
@[simp] theorem State.clearErr_pclkdiv (v : Word) : (s.clearErr v).pclkdiv = s.pclkdiv := rfl
@[simp] theorem State.clearErr_pol (v : Word) : (s.clearErr v).pol = s.pol := rfl
@[simp] theorem State.clearErr_arg0 (v : Word) : (s.clearErr v).arg0 = s.arg0 := rfl
@[simp] theorem State.clearErr_arg1 (v : Word) : (s.clearErr v).arg1 = s.arg1 := rfl
@[simp] theorem State.clearErr_arg2 (v : Word) : (s.clearErr v).arg2 = s.arg2 := rfl
@[simp] theorem State.clearErr_arg3 (v : Word) : (s.clearErr v).arg3 = s.arg3 := rfl
@[simp] theorem State.clearErr_result0 (v : Word) : (s.clearErr v).result0 = s.result0 := rfl
@[simp] theorem State.clearErr_result1 (v : Word) : (s.clearErr v).result1 = s.result1 := rfl
@[simp] theorem State.clearErr_key (v : Word) : (s.clearErr v).key = s.key := rfl
@[simp] theorem State.clearErr_colorIn (v : Word) : (s.clearErr v).colorIn = s.colorIn := rfl
@[simp] theorem State.clearErr_pin (v : Word) : (s.clearErr v).pin = s.pin := rfl
@[simp] theorem State.clearErr_route (v : Word) : (s.clearErr v).route = s.route := rfl
@[simp] theorem State.clearErr_hcnt (v : Word) : (s.clearErr v).hcnt = s.hcnt := rfl
@[simp] theorem State.clearErr_vcnt (v : Word) : (s.clearErr v).vcnt = s.vcnt := rfl
@[simp] theorem State.clearErr_eng (v : Word) : (s.clearErr v).eng = s.eng := rfl
@[simp] theorem State.clearErr_fb (v : Word) : (s.clearErr v).fb = s.fb := rfl
@[simp] theorem State.clearErr_scr (v : Word) : (s.clearErr v).scr = s.scr := rfl
@[simp] theorem State.clearErr_fbEpoch (v : Word) : (s.clearErr v).fbEpoch = s.fbEpoch := rfl
@[simp] theorem State.clearErr_scrEpoch (v : Word) : (s.clearErr v).scrEpoch = s.scrEpoch := rfl
@[simp] theorem State.clearErr_pclkDraws (v : Word) : (s.clearErr v).pclkDraws = s.pclkDraws := rfl
@[simp] theorem State.clearErr_turnDraws (v : Word) : (s.clearErr v).turnDraws = s.turnDraws := rfl
@[simp] theorem State.clearErr_rdata (v : Word) : (s.clearErr v).rdata = s.rdata := rfl
@[simp] theorem State.clearErr_emitted (v : Word) : (s.clearErr v).emitted = s.emitted := rfl
@[simp] theorem State.clearErr_panel (v : Word) : (s.clearErr v).panel = s.panel := rfl
@[simp] theorem State.clearErr_hostQueue (v : Word) : (s.clearErr v).hostQueue = s.hostQueue := rfl
@[simp] theorem State.clearErr_turns (v : Word) : (s.clearErr v).turns = s.turns := rfl

/-! ### accept -/

@[simp] theorem State.accept_build (i : Instr) : (s.accept i).build = s.build := rfl
@[simp] theorem State.accept_drv (i : Instr) : (s.accept i).drv = s.drv := rfl
@[simp] theorem State.accept_err (i : Instr) : (s.accept i).err = s.err := rfl
@[simp] theorem State.accept_resW (i : Instr) : (s.accept i).resW = s.resW := rfl
@[simp] theorem State.accept_resH (i : Instr) : (s.accept i).resH = s.resH := rfl
@[simp] theorem State.accept_gpio (i : Instr) : (s.accept i).gpio = s.gpio := rfl
@[simp] theorem State.accept_hsw (i : Instr) : (s.accept i).hsw = s.hsw := rfl
@[simp] theorem State.accept_hbp (i : Instr) : (s.accept i).hbp = s.hbp := rfl
@[simp] theorem State.accept_hfp (i : Instr) : (s.accept i).hfp = s.hfp := rfl
@[simp] theorem State.accept_vsw (i : Instr) : (s.accept i).vsw = s.vsw := rfl
@[simp] theorem State.accept_vbp (i : Instr) : (s.accept i).vbp = s.vbp := rfl
@[simp] theorem State.accept_vfp (i : Instr) : (s.accept i).vfp = s.vfp := rfl
@[simp] theorem State.accept_pclkdiv (i : Instr) : (s.accept i).pclkdiv = s.pclkdiv := rfl
@[simp] theorem State.accept_pol (i : Instr) : (s.accept i).pol = s.pol := rfl
@[simp] theorem State.accept_arg0 (i : Instr) : (s.accept i).arg0 = s.arg0 := rfl
@[simp] theorem State.accept_arg1 (i : Instr) : (s.accept i).arg1 = s.arg1 := rfl
@[simp] theorem State.accept_arg2 (i : Instr) : (s.accept i).arg2 = s.arg2 := rfl
@[simp] theorem State.accept_arg3 (i : Instr) : (s.accept i).arg3 = s.arg3 := rfl
@[simp] theorem State.accept_result0 (i : Instr) : (s.accept i).result0 = s.result0 := rfl
@[simp] theorem State.accept_result1 (i : Instr) : (s.accept i).result1 = s.result1 := rfl
@[simp] theorem State.accept_key (i : Instr) : (s.accept i).key = s.key := rfl
@[simp] theorem State.accept_colorIn (i : Instr) : (s.accept i).colorIn = s.colorIn := rfl
@[simp] theorem State.accept_pin (i : Instr) : (s.accept i).pin = s.pin := rfl
@[simp] theorem State.accept_route (i : Instr) : (s.accept i).route = s.route := rfl
@[simp] theorem State.accept_hcnt (i : Instr) : (s.accept i).hcnt = s.hcnt := rfl
@[simp] theorem State.accept_vcnt (i : Instr) : (s.accept i).vcnt = s.vcnt := rfl
@[simp] theorem State.accept_eng (i : Instr) : (s.accept i).eng = .exec (s.jobOf i) := rfl
@[simp] theorem State.accept_fb (i : Instr) : (s.accept i).fb = s.fb := rfl
@[simp] theorem State.accept_scr (i : Instr) : (s.accept i).scr = s.scr := rfl
@[simp] theorem State.accept_fbEpoch (i : Instr) : (s.accept i).fbEpoch = s.fbEpoch := rfl
@[simp] theorem State.accept_scrEpoch (i : Instr) : (s.accept i).scrEpoch = s.scrEpoch := rfl
@[simp] theorem State.accept_pclkDraws (i : Instr) : (s.accept i).pclkDraws = s.pclkDraws := rfl
@[simp] theorem State.accept_turnDraws (i : Instr) : (s.accept i).turnDraws = s.turnDraws := rfl
@[simp] theorem State.accept_rdata (i : Instr) : (s.accept i).rdata = s.rdata := rfl
@[simp] theorem State.accept_emitted (i : Instr) : (s.accept i).emitted = s.emitted := rfl
@[simp] theorem State.accept_panel (i : Instr) : (s.accept i).panel = s.panel := rfl
@[simp] theorem State.accept_hostQueue (i : Instr) : (s.accept i).hostQueue = s.hostQueue := rfl
@[simp] theorem State.accept_turns (i : Instr) : (s.accept i).turns = s.turns := rfl

/-! ### advance -/

@[simp] theorem State.advance_build (j : Job) : (s.advance j).build = s.build := rfl
@[simp] theorem State.advance_drv (j : Job) : (s.advance j).drv = s.drv := rfl
@[simp] theorem State.advance_err (j : Job) : (s.advance j).err = s.err := rfl
@[simp] theorem State.advance_resW (j : Job) : (s.advance j).resW = s.resW := rfl
@[simp] theorem State.advance_resH (j : Job) : (s.advance j).resH = s.resH := rfl
@[simp] theorem State.advance_gpio (j : Job) : (s.advance j).gpio = s.gpio := rfl
@[simp] theorem State.advance_hsw (j : Job) : (s.advance j).hsw = s.hsw := rfl
@[simp] theorem State.advance_hbp (j : Job) : (s.advance j).hbp = s.hbp := rfl
@[simp] theorem State.advance_hfp (j : Job) : (s.advance j).hfp = s.hfp := rfl
@[simp] theorem State.advance_vsw (j : Job) : (s.advance j).vsw = s.vsw := rfl
@[simp] theorem State.advance_vbp (j : Job) : (s.advance j).vbp = s.vbp := rfl
@[simp] theorem State.advance_vfp (j : Job) : (s.advance j).vfp = s.vfp := rfl
@[simp] theorem State.advance_pclkdiv (j : Job) : (s.advance j).pclkdiv = s.pclkdiv := rfl
@[simp] theorem State.advance_pol (j : Job) : (s.advance j).pol = s.pol := rfl
@[simp] theorem State.advance_arg0 (j : Job) : (s.advance j).arg0 = s.arg0 := rfl
@[simp] theorem State.advance_arg1 (j : Job) : (s.advance j).arg1 = s.arg1 := rfl
@[simp] theorem State.advance_arg2 (j : Job) : (s.advance j).arg2 = s.arg2 := rfl
@[simp] theorem State.advance_arg3 (j : Job) : (s.advance j).arg3 = s.arg3 := rfl
@[simp] theorem State.advance_result0 (j : Job) : (s.advance j).result0 = s.result0 := rfl
@[simp] theorem State.advance_result1 (j : Job) : (s.advance j).result1 = s.result1 := rfl
@[simp] theorem State.advance_key (j : Job) : (s.advance j).key = s.key := rfl
@[simp] theorem State.advance_colorIn (j : Job) : (s.advance j).colorIn = s.colorIn := rfl
@[simp] theorem State.advance_pin (j : Job) : (s.advance j).pin = s.pin := rfl
@[simp] theorem State.advance_route (j : Job) : (s.advance j).route = s.route := rfl
@[simp] theorem State.advance_hcnt (j : Job) : (s.advance j).hcnt = s.hcnt := rfl
@[simp] theorem State.advance_vcnt (j : Job) : (s.advance j).vcnt = s.vcnt := rfl
@[simp] theorem State.advance_eng (j : Job) : (s.advance j).eng = .exec { j with k := j.k + 1, held := none } := rfl
@[simp] theorem State.advance_fb (j : Job) : (s.advance j).fb = s.fb := rfl
@[simp] theorem State.advance_scr (j : Job) : (s.advance j).scr = s.scr := rfl
@[simp] theorem State.advance_fbEpoch (j : Job) : (s.advance j).fbEpoch = s.fbEpoch := rfl
@[simp] theorem State.advance_scrEpoch (j : Job) : (s.advance j).scrEpoch = s.scrEpoch := rfl
@[simp] theorem State.advance_pclkDraws (j : Job) : (s.advance j).pclkDraws = s.pclkDraws := rfl
@[simp] theorem State.advance_turnDraws (j : Job) : (s.advance j).turnDraws = s.turnDraws := rfl
@[simp] theorem State.advance_rdata (j : Job) : (s.advance j).rdata = s.rdata := rfl
@[simp] theorem State.advance_emitted (j : Job) : (s.advance j).emitted = s.emitted := rfl
@[simp] theorem State.advance_panel (j : Job) : (s.advance j).panel = s.panel := rfl
@[simp] theorem State.advance_hostQueue (j : Job) : (s.advance j).hostQueue = s.hostQueue := rfl
@[simp] theorem State.advance_turns (j : Job) : (s.advance j).turns = s.turns := rfl

/-! ### hold -/

@[simp] theorem State.hold_build (j : Job) (v : Pixel) : (s.hold j v).build = s.build := rfl
@[simp] theorem State.hold_drv (j : Job) (v : Pixel) : (s.hold j v).drv = s.drv := rfl
@[simp] theorem State.hold_err (j : Job) (v : Pixel) : (s.hold j v).err = s.err := rfl
@[simp] theorem State.hold_resW (j : Job) (v : Pixel) : (s.hold j v).resW = s.resW := rfl
@[simp] theorem State.hold_resH (j : Job) (v : Pixel) : (s.hold j v).resH = s.resH := rfl
@[simp] theorem State.hold_gpio (j : Job) (v : Pixel) : (s.hold j v).gpio = s.gpio := rfl
@[simp] theorem State.hold_hsw (j : Job) (v : Pixel) : (s.hold j v).hsw = s.hsw := rfl
@[simp] theorem State.hold_hbp (j : Job) (v : Pixel) : (s.hold j v).hbp = s.hbp := rfl
@[simp] theorem State.hold_hfp (j : Job) (v : Pixel) : (s.hold j v).hfp = s.hfp := rfl
@[simp] theorem State.hold_vsw (j : Job) (v : Pixel) : (s.hold j v).vsw = s.vsw := rfl
@[simp] theorem State.hold_vbp (j : Job) (v : Pixel) : (s.hold j v).vbp = s.vbp := rfl
@[simp] theorem State.hold_vfp (j : Job) (v : Pixel) : (s.hold j v).vfp = s.vfp := rfl
@[simp] theorem State.hold_pclkdiv (j : Job) (v : Pixel) : (s.hold j v).pclkdiv = s.pclkdiv := rfl
@[simp] theorem State.hold_pol (j : Job) (v : Pixel) : (s.hold j v).pol = s.pol := rfl
@[simp] theorem State.hold_arg0 (j : Job) (v : Pixel) : (s.hold j v).arg0 = s.arg0 := rfl
@[simp] theorem State.hold_arg1 (j : Job) (v : Pixel) : (s.hold j v).arg1 = s.arg1 := rfl
@[simp] theorem State.hold_arg2 (j : Job) (v : Pixel) : (s.hold j v).arg2 = s.arg2 := rfl
@[simp] theorem State.hold_arg3 (j : Job) (v : Pixel) : (s.hold j v).arg3 = s.arg3 := rfl
@[simp] theorem State.hold_result0 (j : Job) (v : Pixel) : (s.hold j v).result0 = s.result0 := rfl
@[simp] theorem State.hold_result1 (j : Job) (v : Pixel) : (s.hold j v).result1 = s.result1 := rfl
@[simp] theorem State.hold_key (j : Job) (v : Pixel) : (s.hold j v).key = s.key := rfl
@[simp] theorem State.hold_colorIn (j : Job) (v : Pixel) : (s.hold j v).colorIn = s.colorIn := rfl
@[simp] theorem State.hold_pin (j : Job) (v : Pixel) : (s.hold j v).pin = s.pin := rfl
@[simp] theorem State.hold_route (j : Job) (v : Pixel) : (s.hold j v).route = s.route := rfl
@[simp] theorem State.hold_hcnt (j : Job) (v : Pixel) : (s.hold j v).hcnt = s.hcnt := rfl
@[simp] theorem State.hold_vcnt (j : Job) (v : Pixel) : (s.hold j v).vcnt = s.vcnt := rfl
@[simp] theorem State.hold_eng (j : Job) (v : Pixel) : (s.hold j v).eng = .exec { j with held := some v } := rfl
@[simp] theorem State.hold_fb (j : Job) (v : Pixel) : (s.hold j v).fb = s.fb := rfl
@[simp] theorem State.hold_scr (j : Job) (v : Pixel) : (s.hold j v).scr = s.scr := rfl
@[simp] theorem State.hold_fbEpoch (j : Job) (v : Pixel) : (s.hold j v).fbEpoch = s.fbEpoch := rfl
@[simp] theorem State.hold_scrEpoch (j : Job) (v : Pixel) : (s.hold j v).scrEpoch = s.scrEpoch := rfl
@[simp] theorem State.hold_pclkDraws (j : Job) (v : Pixel) : (s.hold j v).pclkDraws = s.pclkDraws := rfl
@[simp] theorem State.hold_turnDraws (j : Job) (v : Pixel) : (s.hold j v).turnDraws = s.turnDraws := rfl
@[simp] theorem State.hold_rdata (j : Job) (v : Pixel) : (s.hold j v).rdata = s.rdata := rfl
@[simp] theorem State.hold_emitted (j : Job) (v : Pixel) : (s.hold j v).emitted = s.emitted := rfl
@[simp] theorem State.hold_panel (j : Job) (v : Pixel) : (s.hold j v).panel = s.panel := rfl
@[simp] theorem State.hold_hostQueue (j : Job) (v : Pixel) : (s.hold j v).hostQueue = s.hostQueue := rfl
@[simp] theorem State.hold_turns (j : Job) (v : Pixel) : (s.hold j v).turns = s.turns := rfl

/-! ### releaseFb -/

@[simp] theorem State.releaseFb_build : (s.releaseFb).build = s.build := rfl
@[simp] theorem State.releaseFb_drv : (s.releaseFb).drv = s.drv := rfl
@[simp] theorem State.releaseFb_err : (s.releaseFb).err = s.err := rfl
@[simp] theorem State.releaseFb_resW : (s.releaseFb).resW = s.resW := rfl
@[simp] theorem State.releaseFb_resH : (s.releaseFb).resH = s.resH := rfl
@[simp] theorem State.releaseFb_gpio : (s.releaseFb).gpio = s.gpio := rfl
@[simp] theorem State.releaseFb_hsw : (s.releaseFb).hsw = s.hsw := rfl
@[simp] theorem State.releaseFb_hbp : (s.releaseFb).hbp = s.hbp := rfl
@[simp] theorem State.releaseFb_hfp : (s.releaseFb).hfp = s.hfp := rfl
@[simp] theorem State.releaseFb_vsw : (s.releaseFb).vsw = s.vsw := rfl
@[simp] theorem State.releaseFb_vbp : (s.releaseFb).vbp = s.vbp := rfl
@[simp] theorem State.releaseFb_vfp : (s.releaseFb).vfp = s.vfp := rfl
@[simp] theorem State.releaseFb_pclkdiv : (s.releaseFb).pclkdiv = s.pclkdiv := rfl
@[simp] theorem State.releaseFb_pol : (s.releaseFb).pol = s.pol := rfl
@[simp] theorem State.releaseFb_arg0 : (s.releaseFb).arg0 = s.arg0 := rfl
@[simp] theorem State.releaseFb_arg1 : (s.releaseFb).arg1 = s.arg1 := rfl
@[simp] theorem State.releaseFb_arg2 : (s.releaseFb).arg2 = s.arg2 := rfl
@[simp] theorem State.releaseFb_arg3 : (s.releaseFb).arg3 = s.arg3 := rfl
@[simp] theorem State.releaseFb_result0 : (s.releaseFb).result0 = s.result0 := rfl
@[simp] theorem State.releaseFb_result1 : (s.releaseFb).result1 = s.result1 := rfl
@[simp] theorem State.releaseFb_key : (s.releaseFb).key = s.key := rfl
@[simp] theorem State.releaseFb_colorIn : (s.releaseFb).colorIn = s.colorIn := rfl
@[simp] theorem State.releaseFb_pin : (s.releaseFb).pin = s.pin := rfl
@[simp] theorem State.releaseFb_route : (s.releaseFb).route = s.route := rfl
@[simp] theorem State.releaseFb_hcnt : (s.releaseFb).hcnt = s.hcnt := rfl
@[simp] theorem State.releaseFb_vcnt : (s.releaseFb).vcnt = s.vcnt := rfl
@[simp] theorem State.releaseFb_eng : (s.releaseFb).eng = s.eng := rfl
@[simp] theorem State.releaseFb_fb : (s.releaseFb).fb = [] := rfl
@[simp] theorem State.releaseFb_scr : (s.releaseFb).scr = s.scr := rfl
@[simp] theorem State.releaseFb_fbEpoch : (s.releaseFb).fbEpoch = s.fbEpoch + 1 := rfl
@[simp] theorem State.releaseFb_scrEpoch : (s.releaseFb).scrEpoch = s.scrEpoch := rfl
@[simp] theorem State.releaseFb_pclkDraws : (s.releaseFb).pclkDraws = s.pclkDraws := rfl
@[simp] theorem State.releaseFb_turnDraws : (s.releaseFb).turnDraws = s.turnDraws := rfl
@[simp] theorem State.releaseFb_rdata : (s.releaseFb).rdata = s.rdata := rfl
@[simp] theorem State.releaseFb_emitted : (s.releaseFb).emitted = s.emitted := rfl
@[simp] theorem State.releaseFb_panel : (s.releaseFb).panel = s.panel := rfl
@[simp] theorem State.releaseFb_hostQueue : (s.releaseFb).hostQueue = s.hostQueue := rfl
@[simp] theorem State.releaseFb_turns : (s.releaseFb).turns = s.turns := rfl

/-! ### emit -/

@[simp] theorem State.emit_build (o : PanelOut) : (s.emit o).build = s.build := rfl
@[simp] theorem State.emit_drv (o : PanelOut) : (s.emit o).drv = s.drv := rfl
@[simp] theorem State.emit_err (o : PanelOut) : (s.emit o).err = s.err := rfl
@[simp] theorem State.emit_resW (o : PanelOut) : (s.emit o).resW = s.resW := rfl
@[simp] theorem State.emit_resH (o : PanelOut) : (s.emit o).resH = s.resH := rfl
@[simp] theorem State.emit_gpio (o : PanelOut) : (s.emit o).gpio = s.gpio := rfl
@[simp] theorem State.emit_hsw (o : PanelOut) : (s.emit o).hsw = s.hsw := rfl
@[simp] theorem State.emit_hbp (o : PanelOut) : (s.emit o).hbp = s.hbp := rfl
@[simp] theorem State.emit_hfp (o : PanelOut) : (s.emit o).hfp = s.hfp := rfl
@[simp] theorem State.emit_vsw (o : PanelOut) : (s.emit o).vsw = s.vsw := rfl
@[simp] theorem State.emit_vbp (o : PanelOut) : (s.emit o).vbp = s.vbp := rfl
@[simp] theorem State.emit_vfp (o : PanelOut) : (s.emit o).vfp = s.vfp := rfl
@[simp] theorem State.emit_pclkdiv (o : PanelOut) : (s.emit o).pclkdiv = s.pclkdiv := rfl
@[simp] theorem State.emit_pol (o : PanelOut) : (s.emit o).pol = s.pol := rfl
@[simp] theorem State.emit_arg0 (o : PanelOut) : (s.emit o).arg0 = s.arg0 := rfl
@[simp] theorem State.emit_arg1 (o : PanelOut) : (s.emit o).arg1 = s.arg1 := rfl
@[simp] theorem State.emit_arg2 (o : PanelOut) : (s.emit o).arg2 = s.arg2 := rfl
@[simp] theorem State.emit_arg3 (o : PanelOut) : (s.emit o).arg3 = s.arg3 := rfl
@[simp] theorem State.emit_result0 (o : PanelOut) : (s.emit o).result0 = s.result0 := rfl
@[simp] theorem State.emit_result1 (o : PanelOut) : (s.emit o).result1 = s.result1 := rfl
@[simp] theorem State.emit_key (o : PanelOut) : (s.emit o).key = s.key := rfl
@[simp] theorem State.emit_colorIn (o : PanelOut) : (s.emit o).colorIn = s.colorIn := rfl
@[simp] theorem State.emit_pin (o : PanelOut) : (s.emit o).pin = s.pin := rfl
@[simp] theorem State.emit_route (o : PanelOut) : (s.emit o).route = s.route := rfl
@[simp] theorem State.emit_hcnt (o : PanelOut) : (s.emit o).hcnt = s.hcnt := rfl
@[simp] theorem State.emit_vcnt (o : PanelOut) : (s.emit o).vcnt = s.vcnt := rfl
@[simp] theorem State.emit_eng (o : PanelOut) : (s.emit o).eng = s.eng := rfl
@[simp] theorem State.emit_fb (o : PanelOut) : (s.emit o).fb = s.fb := rfl
@[simp] theorem State.emit_scr (o : PanelOut) : (s.emit o).scr = s.scr := rfl
@[simp] theorem State.emit_fbEpoch (o : PanelOut) : (s.emit o).fbEpoch = s.fbEpoch := rfl
@[simp] theorem State.emit_scrEpoch (o : PanelOut) : (s.emit o).scrEpoch = s.scrEpoch := rfl
@[simp] theorem State.emit_pclkDraws (o : PanelOut) : (s.emit o).pclkDraws = s.pclkDraws := rfl
@[simp] theorem State.emit_turnDraws (o : PanelOut) : (s.emit o).turnDraws = s.turnDraws := rfl
@[simp] theorem State.emit_rdata (o : PanelOut) : (s.emit o).rdata = s.rdata := rfl
@[simp] theorem State.emit_emitted (o : PanelOut) : (s.emit o).emitted = o :: s.emitted := rfl
@[simp] theorem State.emit_panel (o : PanelOut) : (s.emit o).panel = some o := rfl
@[simp] theorem State.emit_hostQueue (o : PanelOut) : (s.emit o).hostQueue = s.hostQueue := rfl
@[simp] theorem State.emit_turns (o : PanelOut) : (s.emit o).turns = s.turns := rfl

/-! ### readReg -/

@[simp] theorem State.readReg_build (r : Reg) : (s.readReg r).build = s.build := rfl
@[simp] theorem State.readReg_drv (r : Reg) : (s.readReg r).drv = s.drv := rfl
@[simp] theorem State.readReg_err (r : Reg) : (s.readReg r).err = s.err := rfl
@[simp] theorem State.readReg_resW (r : Reg) : (s.readReg r).resW = s.resW := rfl
@[simp] theorem State.readReg_resH (r : Reg) : (s.readReg r).resH = s.resH := rfl
@[simp] theorem State.readReg_gpio (r : Reg) : (s.readReg r).gpio = s.gpio := rfl
@[simp] theorem State.readReg_hsw (r : Reg) : (s.readReg r).hsw = s.hsw := rfl
@[simp] theorem State.readReg_hbp (r : Reg) : (s.readReg r).hbp = s.hbp := rfl
@[simp] theorem State.readReg_hfp (r : Reg) : (s.readReg r).hfp = s.hfp := rfl
@[simp] theorem State.readReg_vsw (r : Reg) : (s.readReg r).vsw = s.vsw := rfl
@[simp] theorem State.readReg_vbp (r : Reg) : (s.readReg r).vbp = s.vbp := rfl
@[simp] theorem State.readReg_vfp (r : Reg) : (s.readReg r).vfp = s.vfp := rfl
@[simp] theorem State.readReg_pclkdiv (r : Reg) : (s.readReg r).pclkdiv = s.pclkdiv := rfl
@[simp] theorem State.readReg_pol (r : Reg) : (s.readReg r).pol = s.pol := rfl
@[simp] theorem State.readReg_arg0 (r : Reg) : (s.readReg r).arg0 = s.arg0 := rfl
@[simp] theorem State.readReg_arg1 (r : Reg) : (s.readReg r).arg1 = s.arg1 := rfl
@[simp] theorem State.readReg_arg2 (r : Reg) : (s.readReg r).arg2 = s.arg2 := rfl
@[simp] theorem State.readReg_arg3 (r : Reg) : (s.readReg r).arg3 = s.arg3 := rfl
@[simp] theorem State.readReg_result0 (r : Reg) : (s.readReg r).result0 = s.result0 := rfl
@[simp] theorem State.readReg_result1 (r : Reg) : (s.readReg r).result1 = s.result1 := rfl
@[simp] theorem State.readReg_key (r : Reg) : (s.readReg r).key = s.key := rfl
@[simp] theorem State.readReg_colorIn (r : Reg) : (s.readReg r).colorIn = s.colorIn := rfl
@[simp] theorem State.readReg_pin (r : Reg) : (s.readReg r).pin = s.pin := rfl
@[simp] theorem State.readReg_route (r : Reg) : (s.readReg r).route = s.route := rfl
@[simp] theorem State.readReg_hcnt (r : Reg) : (s.readReg r).hcnt = s.hcnt := rfl
@[simp] theorem State.readReg_vcnt (r : Reg) : (s.readReg r).vcnt = s.vcnt := rfl
@[simp] theorem State.readReg_eng (r : Reg) : (s.readReg r).eng = s.eng := rfl
@[simp] theorem State.readReg_fb (r : Reg) : (s.readReg r).fb = s.fb := rfl
@[simp] theorem State.readReg_scr (r : Reg) : (s.readReg r).scr = s.scr := rfl
@[simp] theorem State.readReg_fbEpoch (r : Reg) : (s.readReg r).fbEpoch = s.fbEpoch := rfl
@[simp] theorem State.readReg_scrEpoch (r : Reg) : (s.readReg r).scrEpoch = s.scrEpoch := rfl
@[simp] theorem State.readReg_pclkDraws (r : Reg) : (s.readReg r).pclkDraws = s.drawsAfter r := rfl
@[simp] theorem State.readReg_turnDraws (r : Reg) : (s.readReg r).turnDraws = s.turnDraws := rfl
@[simp] theorem State.readReg_rdata (r : Reg) : (s.readReg r).rdata = s.regValue r := rfl
@[simp] theorem State.readReg_emitted (r : Reg) : (s.readReg r).emitted = s.emitted := rfl
@[simp] theorem State.readReg_panel (r : Reg) : (s.readReg r).panel = s.panel := rfl
@[simp] theorem State.readReg_hostQueue (r : Reg) : (s.readReg r).hostQueue = s.hostQueue := rfl
@[simp] theorem State.readReg_turns (r : Reg) : (s.readReg r).turns = s.turns := rfl

/-! ### memWrite of fb -/

@[simp] theorem State.memWrite_fb_build (off : Nat) (bs : List Byte) : (s.memWrite .fb off bs).build = s.build := rfl
@[simp] theorem State.memWrite_fb_drv (off : Nat) (bs : List Byte) : (s.memWrite .fb off bs).drv = s.drv := rfl
@[simp] theorem State.memWrite_fb_err (off : Nat) (bs : List Byte) : (s.memWrite .fb off bs).err = s.err := rfl
@[simp] theorem State.memWrite_fb_resW (off : Nat) (bs : List Byte) : (s.memWrite .fb off bs).resW = s.resW := rfl
@[simp] theorem State.memWrite_fb_resH (off : Nat) (bs : List Byte) : (s.memWrite .fb off bs).resH = s.resH := rfl
@[simp] theorem State.memWrite_fb_gpio (off : Nat) (bs : List Byte) : (s.memWrite .fb off bs).gpio = s.gpio := rfl
@[simp] theorem State.memWrite_fb_hsw (off : Nat) (bs : List Byte) : (s.memWrite .fb off bs).hsw = s.hsw := rfl
@[simp] theorem State.memWrite_fb_hbp (off : Nat) (bs : List Byte) : (s.memWrite .fb off bs).hbp = s.hbp := rfl
@[simp] theorem State.memWrite_fb_hfp (off : Nat) (bs : List Byte) : (s.memWrite .fb off bs).hfp = s.hfp := rfl
@[simp] theorem State.memWrite_fb_vsw (off : Nat) (bs : List Byte) : (s.memWrite .fb off bs).vsw = s.vsw := rfl
@[simp] theorem State.memWrite_fb_vbp (off : Nat) (bs : List Byte) : (s.memWrite .fb off bs).vbp = s.vbp := rfl
@[simp] theorem State.memWrite_fb_vfp (off : Nat) (bs : List Byte) : (s.memWrite .fb off bs).vfp = s.vfp := rfl
@[simp] theorem State.memWrite_fb_pclkdiv (off : Nat) (bs : List Byte) : (s.memWrite .fb off bs).pclkdiv = s.pclkdiv := rfl
@[simp] theorem State.memWrite_fb_pol (off : Nat) (bs : List Byte) : (s.memWrite .fb off bs).pol = s.pol := rfl
@[simp] theorem State.memWrite_fb_arg0 (off : Nat) (bs : List Byte) : (s.memWrite .fb off bs).arg0 = s.arg0 := rfl
@[simp] theorem State.memWrite_fb_arg1 (off : Nat) (bs : List Byte) : (s.memWrite .fb off bs).arg1 = s.arg1 := rfl
@[simp] theorem State.memWrite_fb_arg2 (off : Nat) (bs : List Byte) : (s.memWrite .fb off bs).arg2 = s.arg2 := rfl
@[simp] theorem State.memWrite_fb_arg3 (off : Nat) (bs : List Byte) : (s.memWrite .fb off bs).arg3 = s.arg3 := rfl
@[simp] theorem State.memWrite_fb_result0 (off : Nat) (bs : List Byte) : (s.memWrite .fb off bs).result0 = s.result0 := rfl
@[simp] theorem State.memWrite_fb_result1 (off : Nat) (bs : List Byte) : (s.memWrite .fb off bs).result1 = s.result1 := rfl
@[simp] theorem State.memWrite_fb_key (off : Nat) (bs : List Byte) : (s.memWrite .fb off bs).key = s.key := rfl
@[simp] theorem State.memWrite_fb_colorIn (off : Nat) (bs : List Byte) : (s.memWrite .fb off bs).colorIn = s.colorIn := rfl
@[simp] theorem State.memWrite_fb_pin (off : Nat) (bs : List Byte) : (s.memWrite .fb off bs).pin = s.pin := rfl
@[simp] theorem State.memWrite_fb_route (off : Nat) (bs : List Byte) : (s.memWrite .fb off bs).route = s.route := rfl
@[simp] theorem State.memWrite_fb_hcnt (off : Nat) (bs : List Byte) : (s.memWrite .fb off bs).hcnt = s.hcnt := rfl
@[simp] theorem State.memWrite_fb_vcnt (off : Nat) (bs : List Byte) : (s.memWrite .fb off bs).vcnt = s.vcnt := rfl
@[simp] theorem State.memWrite_fb_eng (off : Nat) (bs : List Byte) : (s.memWrite .fb off bs).eng = s.eng := rfl
@[simp] theorem State.memWrite_fb_fb (off : Nat) (bs : List Byte) : (s.memWrite .fb off bs).fb = s.fb.setBytes off bs := rfl
@[simp] theorem State.memWrite_fb_scr (off : Nat) (bs : List Byte) : (s.memWrite .fb off bs).scr = s.scr := rfl
@[simp] theorem State.memWrite_fb_fbEpoch (off : Nat) (bs : List Byte) : (s.memWrite .fb off bs).fbEpoch = s.fbEpoch := rfl
@[simp] theorem State.memWrite_fb_scrEpoch (off : Nat) (bs : List Byte) : (s.memWrite .fb off bs).scrEpoch = s.scrEpoch := rfl
@[simp] theorem State.memWrite_fb_pclkDraws (off : Nat) (bs : List Byte) : (s.memWrite .fb off bs).pclkDraws = s.pclkDraws := rfl
@[simp] theorem State.memWrite_fb_turnDraws (off : Nat) (bs : List Byte) : (s.memWrite .fb off bs).turnDraws = s.turnDraws := rfl
@[simp] theorem State.memWrite_fb_rdata (off : Nat) (bs : List Byte) : (s.memWrite .fb off bs).rdata = s.rdata := rfl
@[simp] theorem State.memWrite_fb_emitted (off : Nat) (bs : List Byte) : (s.memWrite .fb off bs).emitted = s.emitted := rfl
@[simp] theorem State.memWrite_fb_panel (off : Nat) (bs : List Byte) : (s.memWrite .fb off bs).panel = s.panel := rfl
@[simp] theorem State.memWrite_fb_hostQueue (off : Nat) (bs : List Byte) : (s.memWrite .fb off bs).hostQueue = s.hostQueue := rfl
@[simp] theorem State.memWrite_fb_turns (off : Nat) (bs : List Byte) : (s.memWrite .fb off bs).turns = s.turns := rfl

/-! ### memWrite of scr -/

@[simp] theorem State.memWrite_scr_build (off : Nat) (bs : List Byte) : (s.memWrite .scr off bs).build = s.build := rfl
@[simp] theorem State.memWrite_scr_drv (off : Nat) (bs : List Byte) : (s.memWrite .scr off bs).drv = s.drv := rfl
@[simp] theorem State.memWrite_scr_err (off : Nat) (bs : List Byte) : (s.memWrite .scr off bs).err = s.err := rfl
@[simp] theorem State.memWrite_scr_resW (off : Nat) (bs : List Byte) : (s.memWrite .scr off bs).resW = s.resW := rfl
@[simp] theorem State.memWrite_scr_resH (off : Nat) (bs : List Byte) : (s.memWrite .scr off bs).resH = s.resH := rfl
@[simp] theorem State.memWrite_scr_gpio (off : Nat) (bs : List Byte) : (s.memWrite .scr off bs).gpio = s.gpio := rfl
@[simp] theorem State.memWrite_scr_hsw (off : Nat) (bs : List Byte) : (s.memWrite .scr off bs).hsw = s.hsw := rfl
@[simp] theorem State.memWrite_scr_hbp (off : Nat) (bs : List Byte) : (s.memWrite .scr off bs).hbp = s.hbp := rfl
@[simp] theorem State.memWrite_scr_hfp (off : Nat) (bs : List Byte) : (s.memWrite .scr off bs).hfp = s.hfp := rfl
@[simp] theorem State.memWrite_scr_vsw (off : Nat) (bs : List Byte) : (s.memWrite .scr off bs).vsw = s.vsw := rfl
@[simp] theorem State.memWrite_scr_vbp (off : Nat) (bs : List Byte) : (s.memWrite .scr off bs).vbp = s.vbp := rfl
@[simp] theorem State.memWrite_scr_vfp (off : Nat) (bs : List Byte) : (s.memWrite .scr off bs).vfp = s.vfp := rfl
@[simp] theorem State.memWrite_scr_pclkdiv (off : Nat) (bs : List Byte) : (s.memWrite .scr off bs).pclkdiv = s.pclkdiv := rfl
@[simp] theorem State.memWrite_scr_pol (off : Nat) (bs : List Byte) : (s.memWrite .scr off bs).pol = s.pol := rfl
@[simp] theorem State.memWrite_scr_arg0 (off : Nat) (bs : List Byte) : (s.memWrite .scr off bs).arg0 = s.arg0 := rfl
@[simp] theorem State.memWrite_scr_arg1 (off : Nat) (bs : List Byte) : (s.memWrite .scr off bs).arg1 = s.arg1 := rfl
@[simp] theorem State.memWrite_scr_arg2 (off : Nat) (bs : List Byte) : (s.memWrite .scr off bs).arg2 = s.arg2 := rfl
@[simp] theorem State.memWrite_scr_arg3 (off : Nat) (bs : List Byte) : (s.memWrite .scr off bs).arg3 = s.arg3 := rfl
@[simp] theorem State.memWrite_scr_result0 (off : Nat) (bs : List Byte) : (s.memWrite .scr off bs).result0 = s.result0 := rfl
@[simp] theorem State.memWrite_scr_result1 (off : Nat) (bs : List Byte) : (s.memWrite .scr off bs).result1 = s.result1 := rfl
@[simp] theorem State.memWrite_scr_key (off : Nat) (bs : List Byte) : (s.memWrite .scr off bs).key = s.key := rfl
@[simp] theorem State.memWrite_scr_colorIn (off : Nat) (bs : List Byte) : (s.memWrite .scr off bs).colorIn = s.colorIn := rfl
@[simp] theorem State.memWrite_scr_pin (off : Nat) (bs : List Byte) : (s.memWrite .scr off bs).pin = s.pin := rfl
@[simp] theorem State.memWrite_scr_route (off : Nat) (bs : List Byte) : (s.memWrite .scr off bs).route = s.route := rfl
@[simp] theorem State.memWrite_scr_hcnt (off : Nat) (bs : List Byte) : (s.memWrite .scr off bs).hcnt = s.hcnt := rfl
@[simp] theorem State.memWrite_scr_vcnt (off : Nat) (bs : List Byte) : (s.memWrite .scr off bs).vcnt = s.vcnt := rfl
@[simp] theorem State.memWrite_scr_eng (off : Nat) (bs : List Byte) : (s.memWrite .scr off bs).eng = s.eng := rfl
@[simp] theorem State.memWrite_scr_fb (off : Nat) (bs : List Byte) : (s.memWrite .scr off bs).fb = s.fb := rfl
@[simp] theorem State.memWrite_scr_scr (off : Nat) (bs : List Byte) : (s.memWrite .scr off bs).scr = s.scr.setBytes off bs := rfl
@[simp] theorem State.memWrite_scr_fbEpoch (off : Nat) (bs : List Byte) : (s.memWrite .scr off bs).fbEpoch = s.fbEpoch := rfl
@[simp] theorem State.memWrite_scr_scrEpoch (off : Nat) (bs : List Byte) : (s.memWrite .scr off bs).scrEpoch = s.scrEpoch := rfl
@[simp] theorem State.memWrite_scr_pclkDraws (off : Nat) (bs : List Byte) : (s.memWrite .scr off bs).pclkDraws = s.pclkDraws := rfl
@[simp] theorem State.memWrite_scr_turnDraws (off : Nat) (bs : List Byte) : (s.memWrite .scr off bs).turnDraws = s.turnDraws := rfl
@[simp] theorem State.memWrite_scr_rdata (off : Nat) (bs : List Byte) : (s.memWrite .scr off bs).rdata = s.rdata := rfl
@[simp] theorem State.memWrite_scr_emitted (off : Nat) (bs : List Byte) : (s.memWrite .scr off bs).emitted = s.emitted := rfl
@[simp] theorem State.memWrite_scr_panel (off : Nat) (bs : List Byte) : (s.memWrite .scr off bs).panel = s.panel := rfl
@[simp] theorem State.memWrite_scr_hostQueue (off : Nat) (bs : List Byte) : (s.memWrite .scr off bs).hostQueue = s.hostQueue := rfl
@[simp] theorem State.memWrite_scr_turns (off : Nat) (bs : List Byte) : (s.memWrite .scr off bs).turns = s.turns := rfl

end Sys2Proof.Machine
end

