-- ==== Sys2Proof/Laws/Memory.lean ====
section
/-! SUPPORT. The laws of memory: the canonical form and its extensionality, what a read after a write
gives, and where the pixels of the Framebuffer Store lie. -/

namespace Sys2Proof.Machine

/-! ### One byte -/

theorem Memory.get?_set (m : Memory) (a b : Nat) (v : Byte) :
    (m.set a v).get? b = if b = a then some v else m.get? b := by
  induction m with
  | nil => simp [Memory.set, Memory.get?, eq_comm]
  | cons c m ih =>
    simp only [Memory.set]
    split
    · simp [Memory.get?, eq_comm]
    · split
      · subst_vars
        by_cases h : b = c.1 <;> simp [Memory.get?, h, eq_comm]
      · by_cases h : b = c.1
        · subst h; simp [Memory.get?]; intro h; omega
        · simp [Memory.get?, ih, Ne.symm h]

theorem Memory.mem_set {m : Memory} {a : Nat} {v : Byte} {c : Host.Cell}
    (h : c ∈ m.set a v) : c = (a, v) ∨ c ∈ m := by
  induction m with
  | nil => simpa [Memory.set] using h
  | cons d m ih =>
    simp only [Memory.set] at h
    split at h
    · simpa using h
    · split at h
      · rcases List.mem_cons.1 h with h | h
        · exact .inl h
        · exact .inr (List.mem_cons_of_mem _ h)
      · rcases List.mem_cons.1 h with h | h
        · exact .inr (by simp [h])
        · exact (ih h).imp_right (List.mem_cons_of_mem _)

theorem Memory.set_wf {m : Memory} (hm : m.wf) (a : Nat) (v : Byte) : (m.set a v).wf := by
  induction m with
  | nil => simp [Memory.set, Memory.wf]
  | cons c m ih =>
    obtain ⟨hc, hm'⟩ := List.pairwise_cons.1 hm
    simp only [Memory.set]
    split
    · rename_i h
      refine List.pairwise_cons.2 ⟨fun d hd => ?_, hm⟩
      rcases List.mem_cons.1 hd with rfl | hd
      · exact h
      · exact lt_trans h (hc d hd)
    · split
      · rename_i h
        exact List.pairwise_cons.2 ⟨fun d hd => h ▸ hc d hd, hm'⟩
      · refine List.pairwise_cons.2 ⟨fun d hd => ?_, ih hm'⟩
        rcases Memory.mem_set hd with rfl | hd
        · show c.1 < a; omega
        · exact hc d hd

theorem Memory.get?_eq_none_of_lt {m : Memory} {a : Nat} (h : ∀ c ∈ m, a < c.1) :
    m.get? a = none := by
  induction m with
  | nil => rfl
  | cons c m ih =>
    have hc := h c (by simp)
    simp only [Memory.get?]
    rw [if_neg (by omega)]
    exact ih fun d hd => h d (by simp [hd])

/-- Canonical memories that hold the same written bytes are the same data. -/
theorem Memory.ext_of_wf {m n : Memory} (hm : m.wf) (hn : n.wf)
    (h : ∀ a, m.get? a = n.get? a) : m = n := by
  induction m generalizing n with
  | nil =>
    cases n with
    | nil => rfl
    | cons d n => have := h d.1; simp [Memory.get?] at this
  | cons c m ih =>
    obtain ⟨hc, hm'⟩ := List.pairwise_cons.1 hm
    cases n with
    | nil => have := h c.1; simp [Memory.get?] at this
    | cons d n =>
      obtain ⟨hd, hn'⟩ := List.pairwise_cons.1 hn
      have hcd : c.1 = d.1 := by
        by_contra hne
        rcases Nat.lt_or_gt_of_ne hne with hlt | hlt
        · have := h c.1
          rw [Memory.get?_eq_none_of_lt (m := d :: n)] at this
          · simp [Memory.get?] at this
          · intro e he
            rcases List.mem_cons.1 he with rfl | he
            · exact hlt
            · exact lt_trans hlt (hd e he)
        · have := h d.1
          rw [Memory.get?_eq_none_of_lt (m := c :: m)] at this
          · simp [Memory.get?] at this
          · intro e he
            rcases List.mem_cons.1 he with rfl | he
            · exact hlt
            · exact lt_trans hlt (hc e he)
      have hval : c.2 = d.2 := by
        have := h c.1
        simpa [Memory.get?, hcd] using this
      have htail : m = n := by
        refine ih hm' hn' fun a => ?_
        by_cases ha : c.1 = a
        · rw [Memory.get?_eq_none_of_lt fun e he => ha ▸ hc e he,
            Memory.get?_eq_none_of_lt fun e he => ha ▸ hcd ▸ hd e he]
        · have := h a
          simpa [Memory.get?, ha, hcd ▸ ha] using this
      rw [htail, Prod.ext hcd hval]

/-! ### Several bytes -/

theorem Memory.get?_setBytes (m : Memory) (off : Nat) (bs : List Byte) (a : Nat) :
    (m.setBytes off bs).get? a =
      if off ≤ a ∧ a < off + bs.length then bs[a - off]? else m.get? a := by
  induction bs generalizing m off with
  | nil => simp [Memory.setBytes]
  | cons b bs ih =>
    rw [Memory.setBytes, ih, Memory.get?_set]
    by_cases h1 : a = off
    · subst h1; simp
    · by_cases h2 : off + 1 ≤ a ∧ a < off + 1 + bs.length
      · rw [if_pos h2, if_pos (by simp; omega)]
        obtain ⟨k, rfl⟩ : ∃ k, a = off + 1 + k := ⟨a - (off + 1), by omega⟩
        have e1 : off + 1 + k - (off + 1) = k := by omega
        have e2 : off + 1 + k - off = k + 1 := by omega
        rw [e1, e2, List.getElem?_cons_succ]
      · rw [if_neg h2, if_neg h1, if_neg (by simp; omega)]

theorem Memory.setBytes_wf {m : Memory} (hm : m.wf) (off : Nat) (bs : List Byte) :
    (m.setBytes off bs).wf := by
  induction bs generalizing m off with
  | nil => exact hm
  | cons b bs ih => exact ih (Memory.set_wf hm off b) (off + 1)

theorem Memory.mem_setBytes {m : Memory} {off : Nat} {bs : List Byte} {c : Host.Cell}
    (h : c ∈ m.setBytes off bs) : (off ≤ c.1 ∧ c.1 < off + bs.length) ∨ c ∈ m := by
  induction bs generalizing m off with
  | nil => exact .inr h
  | cons b bs ih =>
    rcases ih h with h | h
    · exact .inl (by simp; omega)
    · rcases Memory.mem_set h with rfl | h
      · exact .inl (by simp)
      · exact .inr h

@[simp] theorem pixelBytes_length (v : Pixel) : (pixelBytes v).length = 2 := rfl

theorem Size.dataBytes_length (n : Size) (v : Word) : (n.dataBytes v).length = n.bytes := by
  cases n <;> rfl

/-! ### The bytes of a state -/

/-- What a byte of either memory reads as after a write. -/
theorem State.byteAt_memWrite (s : State) (sp sp' : Space) (off a : Nat) (bs : List Byte) :
    (s.memWrite sp off bs).byteAt sp' a =
      if sp = sp' ∧ off ≤ a ∧ a < off + bs.length then bs.getD (a - off) 0 else s.byteAt sp' a := by
  by_cases h : off ≤ a ∧ a < off + bs.length
  · have hlt : a - off < bs.length := by omega
    cases sp <;> cases sp' <;>
      simp [State.byteAt, Memory.get?_setBytes, h, hlt]
  · cases sp <;> cases sp' <;>
      simp only [State.byteAt, State.memWrite_fb_fb, State.memWrite_fb_scr, State.memWrite_scr_fb,
        State.memWrite_scr_scr, State.memWrite_fb_fbEpoch, State.memWrite_fb_scrEpoch,
        State.memWrite_scr_fbEpoch, State.memWrite_scr_scrEpoch, Memory.get?_setBytes, h] <;> simp

theorem State.byteAt_memWrite_of_ne (s : State) {sp sp' : Space} (h : sp ≠ sp') (off a : Nat)
    (bs : List Byte) : (s.memWrite sp off bs).byteAt sp' a = s.byteAt sp' a := by
  rw [State.byteAt_memWrite, if_neg (by simp [h])]

theorem State.byteAt_memWrite_outside (s : State) (sp sp' : Space) {off a : Nat} (bs : List Byte)
    (h : a < off ∨ off + bs.length ≤ a) : (s.memWrite sp off bs).byteAt sp' a = s.byteAt sp' a := by
  rw [State.byteAt_memWrite, if_neg (by omega)]

/-! ### Pixels -/

theorem pixel_append_bytes (v : Pixel) : v.extractLsb' 8 8 ++ v.extractLsb' 0 8 = v := by
  apply BitVec.eq_of_getLsbD_eq
  intro i hi
  simp only [BitVec.getLsbD_append, BitVec.getLsbD_extractLsb']
  by_cases h : i < 8
  · simp [h]
  · have : i - 8 < 8 := by omega
    simp [h, this, show 8 + (i - 8) = i by omega]

/-- A pixel reads as the pixel written to it. -/
theorem State.pixelAt_memWrite_same (s : State) (sp : Space) (off : Nat) (v : Pixel) :
    (s.memWrite sp off (pixelBytes v)).pixelAt sp off = v := by
  rw [State.pixelAt, State.byteAt_memWrite, State.byteAt_memWrite, if_pos (by simp), if_pos (by simp)]
  simpa [pixelBytes] using pixel_append_bytes v

/-- A pixel write leaves every pixel it does not overlap. -/
theorem State.pixelAt_memWrite_disjoint (s : State) (sp sp' : Space) {off off' : Nat} (v : Pixel)
    (h : sp ≠ sp' ∨ off' + 2 ≤ off ∨ off + 2 ≤ off') :
    (s.memWrite sp off (pixelBytes v)).pixelAt sp' off' = s.pixelAt sp' off' := by
  rcases h with h | h
  · rw [State.pixelAt, State.byteAt_memWrite_of_ne _ h, State.byteAt_memWrite_of_ne _ h,
      State.pixelAt]
  · rw [State.pixelAt, State.byteAt_memWrite_outside _ _ _ _ (by simp; omega),
      State.byteAt_memWrite_outside _ _ _ _ (by simp; omega), State.pixelAt]

/-- The index `y*W + x` of a pixel inside the buffer, in natural numbers. -/
theorem pixOff_eq {W H : Nat} {x y : Int} (h : inb W H x y) :
    pixOff W x y = 2 * (y.toNat * W + x.toNat) := by
  obtain ⟨⟨hx, -⟩, hy, -⟩ := h
  obtain ⟨m, rfl⟩ := Int.eq_ofNat_of_zero_le hx
  obtain ⟨n, rfl⟩ := Int.eq_ofNat_of_zero_le hy
  simp only [pixOff, Int.toNat_natCast]
  norm_cast

/-- The pixels inside the buffer lie inside the Framebuffer Store. -/
theorem pixOff_lt {W H : Nat} {x y : Int} (h : inb W H x y) : pixOff W x y + 2 ≤ 2 * W * H := by
  have hx : x.toNat < W := by have := h.1; omega
  have hy : y.toNat < H := by have := h.2; omega
  have : y.toNat * W + W ≤ W * H := by
    have := Nat.mul_le_mul_right W (Nat.succ_le_of_lt hy)
    rw [Nat.succ_mul, Nat.mul_comm H W] at this; exact this
  rw [pixOff_eq h, Nat.mul_assoc]; omega

/-- Different pixels inside the buffer share no byte. -/
theorem pixOff_disjoint {W H : Nat} {x y x' y' : Int} (h : inb W H x y) (h' : inb W H x' y')
    (hne : ¬(x = x' ∧ y = y')) :
    pixOff W x' y' + 2 ≤ pixOff W x y ∨ pixOff W x y + 2 ≤ pixOff W x' y' := by
  rw [pixOff_eq h, pixOff_eq h']
  suffices y.toNat * W + x.toNat ≠ y'.toNat * W + x'.toNat by omega
  intro he
  have hx : x.toNat < W := by have := h.1; omega
  have hx' : x'.toNat < W := by have := h'.1; omega
  have h1 := congrArg (· % W) he
  have h2 := congrArg (· / W) he
  simp only [Nat.mul_add_mod_self_right, Nat.mod_eq_of_lt hx, Nat.mod_eq_of_lt hx'] at h1
  have hW : 0 < W := by omega
  rw [Nat.add_comm, Nat.add_comm (y'.toNat * W)] at he
  simp only [Nat.add_comm (_ * W), Nat.add_mul_div_right _ _ hW, Nat.div_eq_of_lt hx,
    Nat.div_eq_of_lt hx'] at h2
  have a := h.1.1; have b := h.2.1; have c := h'.1.1; have d := h'.2.1
  omega

/-- Read after `SetPix`, at any pixels inside the buffer. -/
theorem State.pix_setPix (s : State) {x y x' y' : Int} (v : Pixel)
    (h : inb s.width s.height x y) (h' : inb s.width s.height x' y') :
    (s.setPix x y v).pix x' y' = if x = x' ∧ y = y' then v else s.pix x' y' := by
  have hw : (s.setPix x y v).width = s.width := rfl
  rw [State.pix, hw]
  split
  · rename_i he; obtain ⟨rfl, rfl⟩ := he
    exact State.pixelAt_memWrite_same ..
  · rename_i hne
    exact State.pixelAt_memWrite_disjoint _ _ _ _ (.inr (pixOff_disjoint h h' hne))

/-- `SetPix` inside the buffer leaves the bytes at and above `2*W*H`. -/
theorem State.byteAt_setPix_above (s : State) {x y : Int} (v : Pixel) {a : Nat}
    (h : inb s.width s.height x y) (ha : s.storeBytes ≤ a) :
    (s.setPix x y v).byteAt .fb a = s.byteAt .fb a :=
  State.byteAt_memWrite_outside _ _ _ _
    (.inr (Nat.le_trans (pixOff_lt h) ha))

/-! ### The canonical form -/

/-- Every write to a memory keeps the canonical form of both. -/
theorem State.memWrite_wf {s : State} (hf : s.fb.wf) (hs : s.scr.wf) (sp : Space) (off : Nat)
    (bs : List Byte) : (s.memWrite sp off bs).fb.wf ∧ (s.memWrite sp off bs).scr.wf := by
  cases sp
  · exact ⟨Memory.setBytes_wf hf off bs, hs⟩
  · exact ⟨hf, Memory.setBytes_wf hs off bs⟩

theorem State.reset_memories_wf : State.reset.fb.wf ∧ State.reset.scr.wf :=
  ⟨List.Pairwise.nil, List.Pairwise.nil⟩

end Sys2Proof.Machine
end

