-- ==== Sys2Proof/Laws/Ops.lean ====
section
/-! SUPPORT. One lemma for each shared operation that says everything it can do. -/

namespace Sys2Proof.Machine

/-! ### Issue of a raster command -/

theorem State.issue_accepts {s : State} (i : Instr) {bad : Bool} (hr : s.drv = .running)
    (hi : s.eng = .idle) (hb : bad = false) : s.issue i bad = .next (s.accept i) := by
  simp [State.issue, hr, hi, hb]

theorem State.issue_cases {s t : State} {i : Instr} {bad : Bool} (h : s.issue i bad = .next t) :
    (s.drv ≠ .running ∧ t = s.raise .state) ∨
    (s.drv = .running ∧ s.eng ≠ .idle ∧ t = s.raise .busy) ∨
    (s.drv = .running ∧ s.eng = .idle ∧ bad = true ∧ t = s.raise .arg) ∨
    (s.drv = .running ∧ s.eng = .idle ∧ bad = false ∧ t = s.accept i) := by
  unfold State.issue at h
  split at h
  · exact .inl ⟨‹_›, by simpa using h.symm⟩
  · rename_i h1
    split at h
    · exact .inr (.inl ⟨by simpa using h1, ‹_›, by simpa using h.symm⟩)
    · rename_i h2
      split at h
      · exact .inr (.inr (.inl ⟨by simpa using h1, by simpa using h2, ‹_›, by simpa using h.symm⟩))
      · rename_i h3
        exact .inr (.inr (.inr
          ⟨by simpa using h1, by simpa using h2, by simpa using h3, by simpa using h.symm⟩))

/-- Every raster command is issued by the one shared operation. -/
theorem exec_raster (i : Instr) (s : State) (h : i.port = .cmd) :
    exec i s = s.issue i ((s.jobOf i).argsInvalid s.build.scrBytes) := by
  cases i <;> first | rfl | cases h

/-! ### The instructions -/

/-- What an instruction's next state can be. -/
inductive ExecEffect (s : State) : Instr → State → Prop
  | rejected (i : Instr) (f : ErrFlag) : ExecEffect s i (s.raise f)
  | accepted (i : Instr) (hp : i.port = .cmd) (hr : s.drv = .running) (he : s.eng = .idle)
      (ha : (s.jobOf i).argsInvalid s.build.scrBytes = false) : ExecEffect s i (s.accept i)
  | init (rsv : BitVec 29) (hd : s.drv = .uninit ∨ s.drv = .stopped) (hc : s.configInvalid = false) :
      ExecEffect s (.init rsv) { s with route := s.pin, drv := .initializing, eng := .clearing 0 }
  | run (rsv : BitVec 29) (hd : s.drv = .initializing) (he : s.eng = .idle) :
      ExecEffect s (.run rsv) { s with drv := .running, hcnt := 0, vcnt := 0, panel := none }
  | deinit (rsv : BitVec 29) (hd : s.drv = .initializing ∨ s.drv = .running)
      (he : s.eng.busy = false) :
      ExecEffect s (.deinit rsv) { s.releaseFb with drv := .stopped, eng := .idle, panel := none }

theorem exec_cases {i : Instr} {s t : State} (h : exec i s = .next t) : ExecEffect s i t := by
  by_cases hp : i.port = .cmd
  · rw [exec_raster i s hp] at h
    rcases State.issue_cases h with ⟨-, rfl⟩ | ⟨-, -, rfl⟩ | ⟨-, -, -, rfl⟩ | ⟨hr, he, ha, rfl⟩
    · exact .rejected i _
    · exact .rejected i _
    · exact .rejected i _
    · exact .accepted i hp hr he ha
  · cases i with
    | init rsv =>
      simp only [exec, execInit] at h
      split at h
      · cases h; exact .rejected _ _
      · rename_i hd
        split at h
        · cases h; exact .rejected _ _
        · rename_i hc
          cases h; exact .init rsv (Decidable.not_not.1 hd) (Bool.eq_false_iff.2 hc)
    | run rsv =>
      simp only [exec, execRun] at h
      split at h
      · cases h; exact .rejected _ _
      · split at h
        · cases h; exact .rejected _ _
        · cases h; exact .run rsv (by simpa using ‹¬s.drv ≠ _›) (by simpa using ‹¬s.eng ≠ _›)
    | deinit rsv =>
      simp only [exec, execDeinit] at h
      split at h
      · cases h; exact .rejected _ _
      · rename_i hd
        split at h
        · cases h; exact .rejected _ _
        · rename_i hb
          cases h; exact .deinit rsv (Decidable.not_not.1 hd) (Bool.eq_false_iff.2 hb)
    | _ => exact absurd rfl hp

/-- Every instruction answers a next state, whatever the state. -/
theorem exec_total (i : Instr) (s : State) : ∃ t, exec i s = .next t := by
  by_cases hp : i.port = .cmd
  · rw [exec_raster i s hp, State.issue]
    split
    · exact ⟨_, rfl⟩
    · split
      · exact ⟨_, rfl⟩
      · split <;> exact ⟨_, rfl⟩
  · cases i with
    | init rsv => simp only [exec, execInit]; split; exact ⟨_, rfl⟩; split <;> exact ⟨_, rfl⟩
    | run rsv => simp only [exec, execRun]; split; exact ⟨_, rfl⟩; split <;> exact ⟨_, rfl⟩
    | deinit rsv => simp only [exec, execDeinit]; split; exact ⟨_, rfl⟩; split <;> exact ⟨_, rfl⟩
    | _ => exact absurd rfl hp

/-! ### Bus transactions -/

/-- What a host write can do. -/
inductive WriteEffect (s : State) : State → Prop
  | rejected (f : ErrFlag) : WriteEffect s (s.raise f)
  | nothing : WriteEffect s s
  | action (i : Instr) (t : State) (h : ExecEffect s i t) : WriteEffect s t
  | clearErr (v : Word) : WriteEffect s (s.clearErr v)
  | res (v : Word) (hd : s.drv = .uninit ∨ s.drv = .stopped) (hv : resLegal s.build.fbBytes v) :
      WriteEffect s { s with resW := lowHalf v, resH := highHalf v }
  | pin (i : Fin 25) (v : Word) (hd : s.drv = .uninit ∨ s.drv = .stopped)
      (hv : pinLegal s.build.npads v) : WriteEffect s { s with pin := s.pin.set i (lowByte v) }
  | gpio (v : BitVec 5) : WriteEffect s { s with gpio := v }
  | hsw (v : BitVec 16) (hd : s.drv ≠ .running) (hv : v ≠ 0) : WriteEffect s { s with hsw := v }
  | hbp (v : BitVec 16) (hd : s.drv ≠ .running) : WriteEffect s { s with hbp := v }
  | hfp (v : BitVec 16) (hd : s.drv ≠ .running) : WriteEffect s { s with hfp := v }
  | vsw (v : BitVec 16) (hd : s.drv ≠ .running) (hv : v ≠ 0) : WriteEffect s { s with vsw := v }
  | vbp (v : BitVec 16) (hd : s.drv ≠ .running) : WriteEffect s { s with vbp := v }
  | vfp (v : BitVec 16) (hd : s.drv ≠ .running) : WriteEffect s { s with vfp := v }
  | pclkdiv (v : BitVec 16) (hd : s.drv ≠ .running) : WriteEffect s { s with pclkdiv := v }
  | pol (v : BitVec 4) (hd : s.drv ≠ .running) : WriteEffect s { s with pol := v }
  | arg0 (v : Word) : WriteEffect s { s with arg0 := v }
  | arg1 (v : Word) : WriteEffect s { s with arg1 := v }
  | arg2 (v : Word) : WriteEffect s { s with arg2 := v }
  | arg3 (v : Word) : WriteEffect s { s with arg3 := v }
  | key (v : Pixel) : WriteEffect s { s with key := v }
  | colorIn (v : BitVec 24) : WriteEffect s { s with colorIn := v }
  | fb (off : Nat) (n : Size) (v : Word) (hd : s.drv = .running)
      (hb : off + n.bytes ≤ s.storeBytes) :
      WriteEffect s (s.memWrite .fb off (n.dataBytes v))
  | scr (off : Nat) (n : Size) (v : Word) (hb : off + n.bytes ≤ s.build.scrBytes) :
      WriteEffect s (s.memWrite .scr off (n.dataBytes v))

theorem State.writeCtrl_cases {s t : State} {v : Word} (h : s.writeCtrl v = .next t) :
    WriteEffect s t := by
  unfold State.writeCtrl at h
  split at h
  · exact .action _ _ (exec_cases h)
  · cases h; exact .nothing
  · cases h; exact .rejected _

theorem State.writeCmd_cases {s t : State} {v : Word} (h : s.writeCmd v = .next t) :
    WriteEffect s t := by
  unfold State.writeCmd at h
  split at h
  · exact .action _ _ (exec_cases h)
  · split at h
    · cases h; exact .rejected _
    · split at h <;> (cases h; exact .rejected _)

/-- A lock that is open tells the state (10_state R36(f)). -/
theorem config_unlocked {d : DriverState} (h : Lock.config.locked d = false) :
    d = .uninit ∨ d = .stopped := by
  cases d <;> simp_all [Lock.locked]

theorem run_unlocked {d : DriverState} (h : Lock.run.locked d = false) : d ≠ .running := by
  cases d <;> simp_all [Lock.locked]

theorem State.writeReg_cases {s t : State} {r : Reg} {v : Word} (h : s.writeReg r v = .next t) :
    WriteEffect s t := by
  unfold State.writeReg at h
  split at h
  · cases h; exact .rejected _
  · split at h
    · cases h; exact .rejected _
    · rename_i hlock
      have hlock : r.lock.locked s.drv = false := by simpa using hlock
      cases r with
      | ctrl => exact State.writeCtrl_cases h
      | cmd => exact State.writeCmd_cases h
      | res =>
        simp only [State.storeReg] at h
        split at h
        · cases h; exact .res v (config_unlocked hlock) ‹_›
        · cases h; exact .rejected _
      | pin i =>
        simp only [State.storeReg] at h
        split at h
        · cases h; exact .pin i v (config_unlocked hlock) ‹_›
        · cases h; exact .rejected _
      | hsw =>
        simp only [State.storeReg] at h
        split at h
        · cases h; exact .rejected _
        · cases h; exact .hsw _ (run_unlocked hlock) ‹_›
      | vsw =>
        simp only [State.storeReg] at h
        split at h
        · cases h; exact .rejected _
        · cases h; exact .vsw _ (run_unlocked hlock) ‹_›
      | err => cases h; exact .clearErr v
      | gpio => cases h; exact .gpio _
      | hbp => cases h; exact .hbp _ (run_unlocked hlock)
      | hfp => cases h; exact .hfp _ (run_unlocked hlock)
      | vbp => cases h; exact .vbp _ (run_unlocked hlock)
      | vfp => cases h; exact .vfp _ (run_unlocked hlock)
      | pclkdiv => cases h; exact .pclkdiv _ (run_unlocked hlock)
      | pol => cases h; exact .pol _ (run_unlocked hlock)
      | arg0 => cases h; exact .arg0 _
      | arg1 => cases h; exact .arg1 _
      | arg2 => cases h; exact .arg2 _
      | arg3 => cases h; exact .arg3 _
      | key => cases h; exact .key _
      | colorIn => cases h; exact .colorIn _
      | _ => cases h; exact .rejected _

theorem State.memCheck_fb_none {s : State} {off : Nat} {n : Size}
    (h : s.memCheck .fb off n = none) :
    misaligned off n = false ∧ s.drv = .running ∧ off + n.bytes ≤ s.storeBytes := by
  simp only [State.memCheck] at h
  split at h
  · cases h
  · split at h
    · cases h
    · split at h
      · cases h
      · exact ⟨by simpa using ‹¬misaligned off n = true›, by simpa using ‹¬s.drv ≠ _›, by omega⟩

theorem State.memCheck_scr_none {s : State} {off : Nat} {n : Size}
    (h : s.memCheck .scr off n = none) :
    misaligned off n = false ∧ off + n.bytes ≤ s.build.scrBytes := by
  simp only [State.memCheck] at h
  split at h
  · cases h
  · split at h
    · cases h
    · exact ⟨by simpa using ‹¬misaligned off n = true›, by omega⟩

theorem State.write_cases {s t : State} {a : BitVec 22} {n : Size} {v : Word}
    (h : s.write a n v = .next t) : WriteEffect s t := by
  unfold State.write at h
  split at h
  · split at h
    · cases h; exact .rejected _
    · exact State.writeReg_cases h
  · split at h
    · cases h; exact .rejected _
    · rename_i hc
      obtain ⟨-, hd, hb⟩ := State.memCheck_fb_none hc
      cases h; exact .fb _ n v hd hb
  · split at h
    · cases h; exact .rejected _
    · rename_i hc
      cases h; exact .scr _ n v (State.memCheck_scr_none hc).2
  · cases h; exact .rejected _

/-- What a host read can do. -/
theorem State.read_cases (s : State) (a : BitVec 22) (n : Size) :
    (∃ f, s.read a n = s.rejectRead f) ∨ (∃ r, s.read a n = s.readReg r) ∨
      ∃ v, s.read a n = { s with rdata := v } := by
  unfold State.read
  split
  · split
    · exact .inl ⟨_, rfl⟩
    · exact .inr (.inl ⟨_, rfl⟩)
  · split
    · exact .inl ⟨_, rfl⟩
    · exact .inr (.inr ⟨_, rfl⟩)
  · split
    · exact .inl ⟨_, rfl⟩
    · exact .inr (.inr ⟨_, rfl⟩)
  · exact .inl ⟨_, rfl⟩

theorem State.writeReg_total (s : State) (r : Reg) (v : Word) : ∃ t, s.writeReg r v = .next t := by
  unfold State.writeReg
  split
  · exact ⟨_, rfl⟩
  · split
    · exact ⟨_, rfl⟩
    · cases r with
      | ctrl =>
        simp only [State.storeReg, State.writeCtrl]
        split
        · exact exec_total _ _
        · exact ⟨_, rfl⟩
        · exact ⟨_, rfl⟩
      | cmd =>
        simp only [State.storeReg, State.writeCmd]
        split
        · exact exec_total _ _
        · split
          · exact ⟨_, rfl⟩
          · split <;> exact ⟨_, rfl⟩
      | res => simp only [State.storeReg]; split <;> exact ⟨_, rfl⟩
      | pin i => simp only [State.storeReg]; split <;> exact ⟨_, rfl⟩
      | hsw => simp only [State.storeReg]; split <;> exact ⟨_, rfl⟩
      | vsw => simp only [State.storeReg]; split <;> exact ⟨_, rfl⟩
      | _ => exact ⟨_, rfl⟩

theorem State.write_total (s : State) (a : BitVec 22) (n : Size) (v : Word) :
    ∃ t, s.write a n v = .next t := by
  unfold State.write
  split
  · split
    · exact ⟨_, rfl⟩
    · exact State.writeReg_total ..
  · split <;> exact ⟨_, rfl⟩
  · split <;> exact ⟨_, rfl⟩
  · exact ⟨_, rfl⟩

/-! ### The engine -/

/-- What one turn of the engine can do. -/
inductive EngineEffect (s : State) : State → Prop
  | idle (h : s.eng = .idle) : EngineEffect s s
  | clear (n : Nat) (h : s.eng = .clearing n) (hn : n < s.width * s.height) :
      EngineEffect s { s.setPix ((n % s.width : Nat) : Int) ((n / s.width : Nat) : Int) 0 with
        eng := .clearing (n + 1) }
  | cleared (n : Nat) (h : s.eng = .clearing n) (hn : s.width * s.height ≤ n) :
      EngineEffect s { s with eng := .idle }
  | perform (j : Job) (op : Op) (h : s.eng = .exec j)
      (hop : (j.ops s.width s.height)[j.k]? = some op) : EngineEffect s (s.perform j op)
  | finish (j : Job) (h : s.eng = .exec j) (hk : (j.ops s.width s.height).length ≤ j.k) :
      EngineEffect s (s.finish j)

theorem State.engineTurn_cases (s : State) : EngineEffect s s.engineTurn := by
  unfold State.engineTurn
  split
  · exact .idle ‹_›
  · rename_i n h
    unfold State.clearTurn
    split
    · exact .clear n h ‹_›
    · exact .cleared n h (by omega)
  · rename_i j h
    unfold State.execTurn
    split
    · exact .perform j _ h ‹_›
    · rename_i hn; exact .finish j h (List.getElem?_eq_none_iff.1 hn)

/-! ### The step -/

/-- Every agent's turn answers a next state. -/
theorem State.agentTurn_total (s : State) (a : Agent) : ∃ t, s.agentTurn a = .next t := by
  cases a with
  | host =>
    simp only [State.agentTurn, State.hostTurn]
    split
    · exact ⟨_, rfl⟩
    · rename_i t rest _
      cases t with
      | read a n => exact ⟨_, rfl⟩
      | write a n v => exact State.write_total ..
    · split <;> exact ⟨_, rfl⟩
  | scan => exact ⟨_, rfl⟩
  | engine => exact ⟨_, rfl⟩
  | reset => exact ⟨_, rfl⟩

/-- What one turn of the host can do. -/
inductive HostEffect (s : State) : State → Prop
  | none (h : s.hostQueue = []) : HostEffect s s
  | read (a : BitVec 22) (n : Size) (rest : List HostOp)
      (h : s.hostQueue = .txn (.read a n) :: rest) :
      HostEffect s ({ s with hostQueue := rest }.read a n)
  | write (a : BitVec 22) (n : Size) (v : Word) (rest : List HostOp)
      (h : s.hostQueue = .txn (.write a n v) :: rest) (t : State)
      (ht : { s with hostQueue := rest }.write a n v = .next t)
      (he : WriteEffect { s with hostQueue := rest } t) : HostEffect s t
  | waiting (rest : List HostOp) (h : s.hostQueue = .waitIdle :: rest) (he : s.eng ≠ .idle) :
      HostEffect s (s.readReg .status)
  | waited (rest : List HostOp) (h : s.hostQueue = .waitIdle :: rest) (he : s.eng = .idle) :
      HostEffect s { s.readReg .status with hostQueue := rest }

theorem State.hostTurn_cases {s t : State} (h : s.hostTurn = .next t) : HostEffect s t := by
  unfold State.hostTurn at h
  split at h
  · cases h; exact .none ‹_›
  · rename_i x rest hq
    cases x with
    | read a n => cases h; exact .read a n rest hq
    | write a n v => exact .write a n v rest hq t h (State.write_cases h)
  · rename_i rest hq
    split at h
    · rename_i hb
      cases h
      exact .waiting rest hq fun he => by simp [he, Engine.busy, Engine.isClearing] at hb
    · rename_i hb
      cases h
      refine .waited rest hq ?_
      cases he : s.eng <;> simp [he, Engine.busy, Engine.isClearing] at hb ⊢

/-- One step is the turn of one agent. -/
theorem step_cases {s t : State} (h : step s = .next t) :
    (s.nextAgent = .host ∧ HostEffect s.turnTaken t) ∨
    (s.nextAgent = .scan ∧ t = s.turnTaken.scanTurn) ∨
    (s.nextAgent = .engine ∧ t = s.turnTaken.engineTurn) ∨
    (s.nextAgent = .reset ∧ t = s.turnTaken.resetTurn) := by
  unfold step at h
  cases ha : s.nextAgent <;> rw [ha] at h
  · exact .inl ⟨rfl, State.hostTurn_cases h⟩
  · exact .inr (.inl ⟨rfl, by cases h; rfl⟩)
  · exact .inr (.inr (.inl ⟨rfl, by cases h; rfl⟩))
  · exact .inr (.inr (.inr ⟨rfl, by cases h; rfl⟩))

/-- Taking a turn changes only what says who moves next. -/
theorem State.turnTaken_eq (s : State) :
    s.turnTaken = { s with turns := s.turns.tail, turnDraws := s.turnTaken.turnDraws } := by
  unfold State.turnTaken
  split <;> simp_all

end Sys2Proof.Machine
end

