-- ==== Sys2Proof/Laws/Engine.lean ====
section
/-! SUPPORT. The engine running with no other agent between its turns: an accepted command performs
its operations in order and completes. -/

namespace Sys2Proof.Machine

theorem State.engineRun_add (m n : Nat) (s : State) :
    s.engineRun (m + n) = (s.engineRun m).engineRun n := by
  induction m generalizing s with
  | zero => simp [State.engineRun]
  | succ m ih => rw [Nat.succ_add]; exact ih _

/-- The effect of an operation on the memories, its events taken together. -/
def Op.apply : Op → State → State
  | .setPix x y v, s => s.setPix x y v
  | .getPix _ _, s => s
  | .copyS src x y skip, s => if skip = some (s.sPix src) then s else s.setPix x y (s.sPix src)
  | .rotS src dst, s => s.setSPix dst (s.sPix src)

/-- An operation changes the memories only. -/
theorem Op.apply_eq (op : Op) (s : State) :
    op.apply s = { s with fb := (op.apply s).fb, scr := (op.apply s).scr } := by
  cases op <;> simp only [Op.apply]
  · rfl
  · split <;> rfl
  · rfl

theorem Op.foldl_apply_eq (ops : List Op) (s : State) :
    ops.foldl (fun s op => op.apply s) s =
      { s with fb := (ops.foldl (fun s op => op.apply s) s).fb
               scr := (ops.foldl (fun s op => op.apply s) s).scr } := by
  induction ops generalizing s with
  | nil => rfl
  | cons op ops ih =>
    obtain ⟨f, c, h⟩ : ∃ f c, op.apply s = { s with fb := f, scr := c } := ⟨_, _, op.apply_eq s⟩
    rw [List.foldl_cons, h, ih]

/-- The job at progress `k`, holding nothing. -/
def Job.at (j : Job) (k : Nat) : Job := { j with k := k, held := none }

theorem Job.ops_at (j : Job) (k W H : Nat) : (j.at k).ops W H = j.ops W H := rfl

/-- Executing `j` at progress `k`. -/
def State.executing (s : State) (j : Job) (k : Nat) : State := { s with eng := .exec (j.at k) }

/-- One operation that is no GetPix takes one turn or two. -/
theorem State.engineRun_op (s : State) (j : Job) (k : Nat) (op : Op)
    (hop : (j.ops s.width s.height)[k]? = some op) (hg : ∀ x y, op ≠ .getPix x y) :
    ∃ n, n ≤ 2 ∧ (op.twoEvents = false → n = 1) ∧
      (s.executing j k).engineRun n = (op.apply s).executing j (k + 1) := by
  have hturn : ∀ u : State, ∀ j' : Job, u.eng = .exec j' → j'.cmd = j.cmd → j'.a0 = j.a0 →
      j'.a1 = j.a1 → j'.a2 = j.a2 → j'.a3 = j.a3 → j'.key = j.key → j'.k = k →
      u.width = s.width → u.height = s.height → u.engineTurn = u.perform j' op := by
    intro u j' he h0 h1 h2 h3 h4 h5 h6 hw hh
    have hops : j'.ops u.width u.height = j.ops s.width s.height := by
      rw [hw, hh]
      obtain ⟨c, a0, a1, a2, a3, ky, k', hd⟩ := j'
      obtain ⟨d, b0, b1, b2, b3, ky', k'', hd'⟩ := j
      simp only at h0 h1 h2 h3 h4 h5 h6
      subst h0 h1 h2 h3 h4 h5
      rfl
    simp only [State.engineTurn, he, State.execTurn, hops, h6, hop]
  have first := hturn (s.executing j k) (j.at k) rfl rfl rfl rfl rfl rfl rfl rfl rfl rfl
  cases op with
  | setPix x y v =>
    exact ⟨1, by omega, fun _ => rfl, by simp only [State.engineRun, first]; rfl⟩
  | getPix x y => exact absurd rfl (hg x y)
  | copyS src x y skip =>
    have hread : (s.executing j k).sPix src = s.sPix src := rfl
    by_cases hs : skip = some (s.sPix src)
    · refine ⟨1, by omega, fun h => (by cases h), ?_⟩
      simp only [State.engineRun, first, State.perform, Job.at, hread, Op.apply, if_pos hs]
      rfl
    · refine ⟨2, le_rfl, fun h => (by cases h), ?_⟩
      have second := hturn ((s.executing j k).hold (j.at k) (s.sPix src))
        { j.at k with held := some (s.sPix src) } rfl rfl rfl rfl rfl rfl rfl rfl rfl rfl
      simp only [State.engineRun, first, State.perform, Job.at, hread, if_neg hs] at second ⊢
      rw [second]
      simp only [Op.apply, if_neg hs]
      rfl
  | rotS src dst =>
    refine ⟨2, le_rfl, fun h => (by cases h), ?_⟩
    have second := hturn ((s.executing j k).hold (j.at k) (s.sPix src))
      { j.at k with held := some (s.sPix src) } rfl rfl rfl rfl rfl rfl rfl rfl rfl rfl
    have hread : (s.executing j k).sPix src = s.sPix src := rfl
    simp only [State.engineRun, first, State.perform, Job.at, hread] at second ⊢
    rw [second]
    rfl

theorem Op.apply_width (op : Op) (s : State) : (op.apply s).width = s.width := by
  rw [op.apply_eq]; rfl

theorem Op.apply_height (op : Op) (s : State) : (op.apply s).height = s.height := by
  rw [op.apply_eq]; rfl

/-- From progress `k` on, the remaining operations are performed in order. -/
theorem State.engineRun_drop (s : State) (j : Job) (k : Nat)
    (hk : k ≤ (j.ops s.width s.height).length)
    (hg : ∀ x y, Op.getPix x y ∉ j.ops s.width s.height) :
    ∃ n, n ≤ 2 * ((j.ops s.width s.height).length - k) ∧
      ((∀ op ∈ j.ops s.width s.height, op.twoEvents = false) →
        n = (j.ops s.width s.height).length - k) ∧
      (s.executing j k).engineRun n =
        (((j.ops s.width s.height).drop k).foldl (fun s op => op.apply s) s).executing j
          (j.ops s.width s.height).length := by
  induction hm : (j.ops s.width s.height).length - k generalizing s k with
  | zero =>
    have : k = (j.ops s.width s.height).length := by omega
    subst this
    exact ⟨0, by simp, fun _ => rfl, by simp [State.engineRun]⟩
  | succ m ih =>
    have hlt : k < (j.ops s.width s.height).length := by omega
    obtain ⟨n₁, hn₁, hone, h₁⟩ := s.engineRun_op j k _ (List.getElem?_eq_getElem hlt)
      (fun x y h => hg x y (h ▸ List.getElem_mem hlt))
    have hops : j.ops ((j.ops s.width s.height)[k].apply s).width
        ((j.ops s.width s.height)[k].apply s).height = j.ops s.width s.height := by
      rw [Op.apply_width, Op.apply_height]
    obtain ⟨n₂, hn₂, hall, h₂⟩ := ih ((j.ops s.width s.height)[k].apply s) (k + 1)
      (by rw [hops]; omega) (by rw [hops]; exact hg) (by rw [hops]; omega)
    rw [hops] at h₂ hall
    refine ⟨n₁ + n₂, by omega, fun h => ?_, ?_⟩
    · rw [hone (h _ (List.getElem_mem hlt)), hall h]; omega
    · rw [State.engineRun_add, h₁, h₂, List.drop_eq_getElem_cons hlt, List.foldl_cons]

/-- A command other than PIXEL_GET, accepted and left to the engine alone: its operations in order,
then its result register and Idle. -/
theorem State.engineRun_accept (s : State) (i : Instr)
    (hg : ∀ x y, Op.getPix x y ∉ (s.jobOf i).ops s.width s.height) :
    ∃ n, n ≤ 2 * ((s.jobOf i).ops s.width s.height).length + 1 ∧
      ((∀ op ∈ (s.jobOf i).ops s.width s.height, op.twoEvents = false) →
        n = ((s.jobOf i).ops s.width s.height).length + 1) ∧
      (s.accept i).engineRun n =
        (((s.jobOf i).ops s.width s.height).foldl (fun s op => op.apply s) s).finish
          ((s.jobOf i).at ((s.jobOf i).ops s.width s.height).length) := by
  obtain ⟨n, hn, hone, h⟩ := s.engineRun_drop (s.jobOf i) 0 (Nat.zero_le _) hg
  refine ⟨n + 1, by omega, fun hall => by rw [hone hall]; omega, ?_⟩
  have hacc : s.accept i = s.executing (s.jobOf i) 0 := rfl
  rw [hacc, State.engineRun_add, h, List.drop_zero]
  generalize hu : ((s.jobOf i).ops s.width s.height).foldl (fun s op => op.apply s) s = u
  have hw : u.width = s.width := by rw [← hu, Op.foldl_apply_eq]; rfl
  have hh : u.height = s.height := by rw [← hu, Op.foldl_apply_eq]; rfl
  have hops : ((s.jobOf i).at ((s.jobOf i).ops s.width s.height).length).ops u.width u.height =
      (s.jobOf i).ops s.width s.height := by rw [hw, hh]; rfl
  have hnone : ((s.jobOf i).ops s.width s.height)[((s.jobOf i).ops s.width s.height).length]? =
      none := by simp
  simp only [State.engineRun, State.engineTurn, State.executing, State.execTurn]
  have hw' : ({ u with eng := .exec ((s.jobOf i).at ((s.jobOf i).ops s.width s.height).length) } :
      State).width = u.width := rfl
  have hh' : ({ u with eng := .exec ((s.jobOf i).at ((s.jobOf i).ops s.width s.height).length) } :
      State).height = u.height := rfl
  rw [hw', hh', hops]
  simp only [Job.at, hnone]
  rfl

/-! ### Painting -/

/-- What painting points inside the buffer in one colour leaves: the colour at those points, the rest
of the Framebuffer Store and every byte above it as it was. -/
theorem paint_foldl (color : Pixel) (ps : List (Int × Int)) (s : State)
    (hin : ∀ p ∈ ps, inb s.width s.height p.1 p.2) :
    let u := (paintOps color ps).foldl (fun s op => op.apply s) s
    (∀ x y, inb s.width s.height x y → u.pix x y = if (x, y) ∈ ps then color else s.pix x y) ∧
    (∀ a, s.storeBytes ≤ a → u.byteAt .fb a = s.byteAt .fb a) ∧ u.scr = s.scr := by
  induction ps generalizing s with
  | nil => simp [paintOps]
  | cons p ps ih =>
    have hp := hin p (by simp)
    have hstep := ih (s.setPix p.1 p.2 color) fun q hq => hin q (by simp [hq])
    simp only [paintOps, List.map_cons, List.foldl_cons, Op.apply] at hstep ⊢
    refine ⟨fun x y hxy => ?_, fun a ha => ?_, ?_⟩
    · rw [hstep.1 x y hxy, State.pix_setPix s color hp hxy]
      by_cases h1 : (x, y) ∈ ps
      · simp [h1]
      · by_cases h2 : p.1 = x ∧ p.2 = y
        · have : (x, y) = p := Prod.ext h2.1.symm h2.2.symm
          simp [h2, this]
        · have : ¬(x, y) = p := fun h => h2 ⟨by simp [← h], by simp [← h]⟩
          rw [if_neg h1, if_neg h2, if_neg (by simp [this, h1])]
    · exact (hstep.2.1 a ha).trans (State.byteAt_setPix_above s color hp ha)
    · exact hstep.2.2

end Sys2Proof.Machine
end

