-- ==== Sys2Proof/Laws/Area.lean ====
section
/-! SUPPORT. The pixels of a clipped rectangle, and the one lemma by which a command that only paints
pixels in one colour completes. -/

namespace Sys2Proof.Machine

theorem mem_intRange {lo hi x : Int} : x ∈ intRange lo hi ↔ lo ≤ x ∧ x < hi := by
  simp only [intRange, List.mem_map, List.mem_range]
  exact ⟨fun ⟨n, hn, h⟩ => by omega, fun h => ⟨(x - lo).toNat, by omega, by omega⟩⟩

theorem length_intRange (lo hi : Int) : (intRange lo hi).length = (hi - lo).toNat := by
  simp [intRange]

/-- The pixels of the clipped rectangle are the rectangle's pixels inside the buffer. -/
theorem mem_rectPixels {x y w h : Int} {W H : Nat} {p : Int × Int} :
    p ∈ rectPixels x y w h W H ↔
      inb W H p.1 p.2 ∧ (x ≤ p.1 ∧ p.1 < x + w) ∧ (y ≤ p.2 ∧ p.2 < y + h) := by
  obtain ⟨a, b⟩ := p
  unfold rectPixels
  split
  · simp; omega
  · simp [mem_intRange]; omega

theorem length_rectPixels_le (x y w h : Int) (W H : Nat) :
    (rectPixels x y w h W H).length ≤ W * H := by
  unfold rectPixels
  split
  · simp
  · simp only [List.length_flatMap, List.length_map, length_intRange, List.map_const',
      List.sum_replicate, smul_eq_mul]
    rw [Nat.mul_comm]
    apply Nat.mul_le_mul <;> omega

/-- A command whose operations paint the pixels of `P` inside the buffer, and that has no result
register, completes with those pixels painted and everything else as it was. -/
theorem State.completes_painting {s : State} {i : Instr} {color : Pixel} {P : Int → Int → Prop}
    {bound : Nat} (hs : s.acceptsCommands) (hp : i.port = .cmd)
    (hargs : (s.jobOf i).argsInvalid s.build.scrBytes = false)
    (hfin : ∀ u j, j.cmd = i → State.finish u j = { u with eng := .idle })
    (ps : List (Int × Int)) (hops : (s.jobOf i).ops s.width s.height = paintOps color ps)
    (hmem : ∀ p, p ∈ ps ↔ inb s.width s.height p.1 p.2 ∧ P p.1 p.2)
    (hb : ps.length + 1 ≤ bound) : s.CompletesPainting i bound color P := by
  refine ⟨by rw [exec_raster i s hp]; exact State.issue_accepts i hs.1 hs.2 hargs, ?_⟩
  obtain ⟨n, -, hone, h⟩ := s.engineRun_accept i (by rw [hops]; simp [paintOps])
  have hn := hone (by
    rw [hops]; simp only [paintOps, List.mem_map]; rintro op ⟨p, -, rfl⟩; rfl)
  rw [hfin _ _ rfl, hops] at h
  rw [hops] at hn
  obtain ⟨h1, h2, h3⟩ := paint_foldl color ps s (fun p hp => ((hmem p).1 hp).1)
  have hf := Op.foldl_apply_eq (paintOps color ps) s
  rw [h3] at hf
  generalize hm : ((paintOps color ps).foldl (fun s op => op.apply s) s).fb = m at hf
  refine ⟨n, by rw [hn]; simpa [paintOps] using hb, m, ?_, ?_⟩
  · rw [h, hf]
    have hi := hs.2
    cases s
    simp only at hi
    subst hi
    rfl
  · rw [hf] at h1 h2
    exact ⟨fun x y hxy =>
      ⟨fun hP => (h1 x y hxy).trans (if_pos ((hmem (x, y)).2 ⟨hxy, hP⟩)),
        fun hP => (h1 x y hxy).trans (if_neg fun hc => hP ((hmem (x, y)).1 hc).2)⟩, h2⟩

end Sys2Proof.Machine
end

