-- ==== Sys2Proof/Laws/Inv.lean ====
section
/-! SUPPORT. What the invariant depends on, and that the memory operations keep it. -/

namespace Sys2Proof.Machine

/-- The invariant looks at these fields alone. -/
theorem State.inv_congr {s t : State} (h : s.Inv) (hbuild : t.build = s.build) (hdrv : t.drv = s.drv)
    (hresW : t.resW = s.resW) (hresH : t.resH = s.resH) (hhsw : t.hsw = s.hsw) (hhbp : t.hbp = s.hbp)
    (hhfp : t.hfp = s.hfp) (hvsw : t.vsw = s.vsw) (hvbp : t.vbp = s.vbp) (hvfp : t.vfp = s.vfp)
    (hpin : t.pin = s.pin) (hroute : t.route = s.route) (hhcnt : t.hcnt = s.hcnt)
    (hvcnt : t.vcnt = s.vcnt) (heng : t.eng = s.eng) (hfb : t.fb = s.fb) (hscr : t.scr = s.scr)
    (hpanel : t.panel = s.panel) : t.Inv := by
  obtain ⟨⟩ := s
  obtain ⟨⟩ := t
  simp only at hbuild hdrv hresW hresH hhsw hhbp hhfp hvsw hvbp hvfp hpin hroute hhcnt hvcnt heng hfb hscr hpanel
  subst hbuild hdrv hresW hresH hhsw hhbp hhfp hvsw hvbp hvfp hpin hroute hhcnt hvcnt heng hfb hscr hpanel
  exact { h with }

theorem State.inv_raise {s : State} (h : s.Inv) (f : ErrFlag) : (s.raise f).Inv := by
  apply State.inv_congr h <;> rfl

/-- An FB write inside the capacity keeps the invariant. -/
theorem State.inv_memWrite_fb {s : State} (h : s.Inv) {off : Nat} {bs : List Byte}
    (hb : off + bs.length ≤ s.build.fbBytes) : (s.memWrite .fb off bs).Inv :=
  { h with
    fbWf := Memory.setBytes_wf h.fbWf off bs
    fbInside := fun c hc => (Memory.mem_setBytes hc).elim
      (fun hr => Nat.lt_of_lt_of_le hr.2 hb) (h.fbInside c) }

/-- An SCR write inside the capacity keeps the invariant. -/
theorem State.inv_memWrite_scr {s : State} (h : s.Inv) {off : Nat} {bs : List Byte}
    (hb : off + bs.length ≤ s.build.scrBytes) : (s.memWrite .scr off bs).Inv :=
  { h with
    scrWf := Memory.setBytes_wf h.scrWf off bs
    scrInside := fun c hc => (Memory.mem_setBytes hc).elim
      (fun hr => Nat.lt_of_lt_of_le hr.2 hb) (h.scrInside c) }

end Sys2Proof.Machine
end

