-- ==== Sys2Proof/Laws/PerInstr.lean ====
section
/-! SUPPORT. Statements made per instruction: the encoded word matches the `match` and `mask` of the
instruction's row in spec/opcode_table.json. -/

namespace Sys2Proof.Laws.TableRow

/-- The row's `mask`, as spec/opcode_table.json writes it. -/
def mask : Instr → Word
  | .fill _ => 0x0000FFFF
  | .fillRect _ => 0x0000FFFF
  | .rect _ _ => 0x0000FEFF
  | .hline _ => 0x0000FFFF
  | .vline _ => 0x0000FFFF
  | .line _ => 0x0000FFFF
  | .pixelSet _ => 0x0000FFFF
  | .pixelGet _ => 0x0000FFFF
  | .blit _ _ => 0x0000FEFF
  | .rotate _ => 0x0000FFFF
  | .init _ => 0x00000007
  | .run _ => 0x00000007
  | .deinit _ => 0x00000007

/-- The row's `match`. -/
def pattern : Instr → Word
  | .fill _ => 0x00000001
  | .fillRect _ => 0x00000002
  | .rect _ _ => 0x00000003
  | .hline _ => 0x00000004
  | .vline _ => 0x00000005
  | .line _ => 0x00000006
  | .pixelSet _ => 0x00000007
  | .pixelGet _ => 0x00000008
  | .blit _ _ => 0x00000009
  | .rotate _ => 0x0000000A
  | .init _ => 0x00000001
  | .run _ => 0x00000002
  | .deinit _ => 0x00000004

/-- The instruction's word is one of its row's words. -/
def Statement (i : Instr) : Prop := encode i &&& mask i = pattern i

/-- A mask below 2^16 sees only the low half of a command word. -/
theorem cmdWord_and (imm : BitVec 16) (flag : Bool) (op : BitVec 8) (m : BitVec 16) :
    cmdWord imm flag op &&& ((0 : BitVec 16) ++ m) =
      (0 : BitVec 16) ++ (((0 : BitVec 7) ++ BitVec.ofBool flag ++ op) &&& m) := by
  apply BitVec.eq_of_getLsbD_eq
  intro k hk
  simp only [cmdWord, BitVec.getLsbD_and, BitVec.getLsbD_append]
  by_cases h : k < 16
  · by_cases h8 : k < 8
    · simp [h, h8]
    · by_cases h9 : k = 8
      · subst h9; simp
      · have h1 : ¬ k - 8 < 1 := by omega
        have h2 : k - 8 - 1 < 7 := by omega
        have h3 : ¬ k < 9 := by omega
        simp [h, h8, h1, h2]
  · simp [h]

/-- A CTRL word's low three bits. -/
theorem ctrlWord_and (rsv : BitVec 29) (op : BitVec 3) :
    (rsv ++ op) &&& (0x00000007 : Word) = (0 : BitVec 29) ++ op := by
  have h7 : (0x00000007 : Word) = (0 : BitVec 29) ++ (7 : BitVec 3) := by decide
  rw [h7]
  apply BitVec.eq_of_getLsbD_eq
  intro k hk
  simp only [BitVec.getLsbD_and, BitVec.getLsbD_append]
  by_cases h : k < 3
  · have : k = 0 ∨ k = 1 ∨ k = 2 := by omega
    rcases this with rfl | rfl | rfl <;> simp
  · simp [h]

theorem fill (color : Pixel) : Statement (.fill color) :=
  (cmdWord_and color false 0x01 0xFFFF).trans rfl

theorem fillRect (color : Pixel) : Statement (.fillRect color) :=
  (cmdWord_and color false 0x02 0xFFFF).trans rfl

theorem rect (filled : Bool) (color : Pixel) : Statement (.rect filled color) :=
  (cmdWord_and color filled 0x03 0xFEFF).trans (by cases filled <;> rfl)

theorem hline (color : Pixel) : Statement (.hline color) :=
  (cmdWord_and color false 0x04 0xFFFF).trans rfl

theorem vline (color : Pixel) : Statement (.vline color) :=
  (cmdWord_and color false 0x05 0xFFFF).trans rfl

theorem line (color : Pixel) : Statement (.line color) :=
  (cmdWord_and color false 0x06 0xFFFF).trans rfl

theorem pixelSet (color : Pixel) : Statement (.pixelSet color) :=
  (cmdWord_and color false 0x07 0xFFFF).trans rfl

theorem pixelGet (imm : BitVec 16) : Statement (.pixelGet imm) :=
  (cmdWord_and imm false 0x08 0xFFFF).trans rfl

theorem blit (keyed : Bool) (imm : BitVec 16) : Statement (.blit keyed imm) :=
  (cmdWord_and imm keyed 0x09 0xFEFF).trans (by cases keyed <;> rfl)

theorem rotate (angle : BitVec 16) : Statement (.rotate angle) :=
  (cmdWord_and angle false 0x0A 0xFFFF).trans rfl

theorem init (rsv : BitVec 29) : Statement (.init rsv) :=
  (ctrlWord_and rsv 0b001).trans rfl

theorem run (rsv : BitVec 29) : Statement (.run rsv) :=
  (ctrlWord_and rsv 0b010).trans rfl

theorem deinit (rsv : BitVec 29) : Statement (.deinit rsv) :=
  (ctrlWord_and rsv 0b100).trans rfl

end Sys2Proof.Laws.TableRow
end

