-- ==== Sys2Proof/Laws/Registers.lean ====
section
/-! SUPPORT. The register map and its addresses: a 4-byte access at a register's offset reaches that
register, and no other offset does. -/

namespace Sys2Proof.Machine

theorem pinAt_some {off : Nat} {r : Reg} (h : pinAt off = some r) : r.offset = off := by
  unfold pinAt at h
  split at h
  · split at h
    · cases h; simp only [Reg.offset]; omega
    · cases h
  · cases h

theorem regAt_some {off : Nat} {r : Reg} (h : regAt off = some r) : r.offset = off := by
  unfold regAt at h
  split at h
  all_goals first | (cases h; rfl) | exact pinAt_some h

theorem regAt_offset (r : Reg) : regAt r.offset = some r := by
  cases r
  case pin i => revert i; decide
  all_goals rfl

/-- Every register lies word-aligned in the window. -/
theorem Reg.offset_mem (r : Reg) : r.offset < 0x1000 ∧ r.offset % 4 = 0 := by
  cases r
  case pin i => have := i.2; simp only [Reg.offset]; omega
  all_goals decide

theorem regionOf_offset (r : Reg) : regionOf (BitVec.ofNat 22 r.offset) = .regs r.offset := by
  have := r.offset_mem
  have h : (BitVec.ofNat 22 r.offset).toNat = r.offset := by rw [BitVec.toNat_ofNat]; omega
  simp only [regionOf, h]
  rw [if_pos this.1]

theorem regTarget_offset (r : Reg) : regTarget r.offset .b4 = some r := by
  unfold regTarget
  rw [if_neg (by simp [misaligned, Size.bytes, r.offset_mem.2]), regAt_offset]

/-- A 4-byte write to a register's address. -/
theorem State.write_offset (s : State) (r : Reg) (v : Word) :
    s.write (BitVec.ofNat 22 r.offset) .b4 v = s.writeReg r v := by
  simp only [State.write, regionOf_offset, regTarget_offset]

/-- A 4-byte read of a register's address. -/
theorem State.read_offset (s : State) (r : Reg) :
    s.read (BitVec.ofNat 22 r.offset) .b4 = s.readReg r := by
  simp only [State.read, regionOf_offset, regTarget_offset]

/-- A write to an unlocked register that is not read-only. -/
theorem State.writeReg_unlocked {s : State} {r : Reg} (v : Word) (hr : r.readOnly = false)
    (hl : r.lock.locked s.drv = false) : s.writeReg r v = s.storeReg r v := by
  simp [State.writeReg, hr, hl]

end Sys2Proof.Machine
end

