-- ==== Sys2Proof/Laws/Scan.lean ====
section
/-! SUPPORT. The scan's step and what the panel signals show. -/

namespace Sys2Proof.Machine

variable {s t : State}

/-- A scan step: its tuple emitted and held, the position advanced, nothing else. -/
theorem State.scanTurn_running (h : s.drv = .running) :
    s.scanTurn = { s with
      emitted := s.periodOut :: s.emitted
      panel := some s.periodOut
      hcnt := s.nextPos.1
      vcnt := s.nextPos.2 } := by
  simp only [State.scanTurn, if_pos h]; rfl

theorem State.scanTurn_stopped (h : s.drv ≠ .running) : s.scanTurn = s := if_neg h

theorem State.panelOut_held {o : PanelOut} (h : s.drv = .running) (hp : s.panel = some o) :
    s.panelOut = o := by
  simp [State.panelOut, State.currentOut, h, hp]

theorem State.panelOut_first (h : s.drv = .running) (hp : s.panel = none) :
    s.panelOut = s.periodOut := by
  simp [State.panelOut, State.currentOut, h, hp]

theorem State.panelOut_stopped (h : s.drv ≠ .running) : s.panelOut = s.idleOut := if_neg h

/-- The first tuple of a run of the scan: both syncs active, DE inactive, D = 0, whatever FB holds. -/
theorem State.periodOut_start (hh : s.hcnt = 0) (hv : s.vcnt = 0) (hhsw : s.hsw ≠ 0)
    (hvsw : s.vsw ≠ 0) :
    s.periodOut = { hs := s.hspol, vs := s.vspol, de := !s.depol, d := 0 } := by
  have h1 : 0 < s.hsw.toNat := Nat.pos_of_ne_zero fun h => hhsw (BitVec.eq_of_toNat_eq h)
  have h2 : 0 < s.vsw.toNat := Nat.pos_of_ne_zero fun h => hvsw (BitVec.eq_of_toNat_eq h)
  have hd : s.deActive = false := by
    simp only [State.deActive, State.ha0, hh, decide_eq_false_iff_not]; omega
  simp [State.periodOut, polLevel, State.hsActive, State.vsActive, State.scanData, hh, hv, h1, h2, hd]

/-- The timing signals' levels follow the tuple on the panel signals, STATE and PCLKPOL alone. -/
theorem State.level_congr {h : Half} {i : Fin 25} (hi : 5 ≤ i.val) (hd : t.drv = s.drv)
    (hpol : t.pol = s.pol) (hp : t.panelOut = s.panelOut) : t.level h i = s.level h i := by
  have h5 : ¬i.val < 5 := by omega
  simp only [State.level, if_neg h5, hp, State.pclkLevel, State.pclkpol, hd, hpol]

end Sys2Proof.Machine
end

