-- ==== Sys2Proof/Tests/Slice0.lean ====
section
/-! SUPPORT. The model's own tests. Expected values are those of spec/95_test_vectors.md (the vector's
id stands in each comment) or of the rule named; the words are written out field by field from
30_encoding R150, R152 and R155. -/

open Sys2Proof Sys2Proof.Machine

namespace Sys2Proof.Tests

/-! ### Helpers -/

/-- The state of a next answer. -/
def after : Result → State
  | .next s => s
  | _ => State.reset

/-- A command word, field by field: IMM, RSV, FLAG, OP (30_encoding R150). -/
def word (imm : BitVec 16) (rsv : BitVec 7) (flag : BitVec 1) (op : BitVec 8) : Word :=
  imm ++ rsv ++ flag ++ op

/-- PIN[i] = i, the assignment of section 2.11. -/
def pins : Vector Byte 25 := Vector.ofFn fun i => BitVec.ofNat 8 i.val

/-- UNINIT, configured as section 2.11 does: 4 x 4. -/
def configured : State := { State.reset with resW := 4, resH := 4, pin := pins }

/-- INITIALIZING, the clear at pixel `n`. -/
def clearing (n : Nat) : State :=
  { configured with drv := .initializing, route := pins, eng := .clearing n }

/-- `clean_running(w, h, fb)` with the memory `fb`. -/
def ready (w h : BitVec 16) (fb : Memory) : State :=
  { configured with drv := .running, route := pins, resW := w, resH := h, fb := fb }

/-- 4 x 4, running, its framebuffer not listed (each byte a draw). -/
def ready4 : State := ready 4 4 []

/-- The bytes of pixels from an offset on, little-endian. -/
def pixels (off : Nat) : List Pixel → Memory
  | [] => []
  | v :: vs => (off, v.extractLsb' 0 8) :: (off + 1, v.extractLsb' 8 8) :: pixels (off + 2) vs

/-- A CMD write, then `n` turns of the engine. -/
def issue (s : State) (c : Word) (n : Nat) : State := (after (s.writeCmd c)).engineRun n

/-- Operands set, then a CMD write and `n` turns of the engine. -/
def issueXY (s : State) (a0 a1 c : Word) (n : Nat) : State :=
  issue { s with arg0 := a0, arg1 := a1 } c n

/-- The memory with one value at the 4 x 4 pixels listed. -/
def painted (v : Pixel) (ps : List (Int × Int)) : Memory :=
  ps.foldl (fun m p => m.setBytes (pixOff 4 p.1 p.2) (pixelBytes v)) []

/-! ### WellFormed: each check refuses -/

theorem test_wf_pixelGet_imm : (Instr.pixelGet 0xABCD).wellFormed = false := by decide
theorem test_wf_blit_imm : (Instr.blit true 1).wellFormed = false := by decide
theorem test_wf_rotate_angle : (Instr.rotate 45).wellFormed = false := by decide
theorem test_wf_rotate_360 : (Instr.rotate 360).wellFormed = false := by decide
theorem test_wf_init_rsv : (Instr.init 1).wellFormed = false := by decide
theorem test_wf_run_rsv : (Instr.run 1).wellFormed = false := by decide
theorem test_wf_deinit_rsv : (Instr.deinit 1).wellFormed = false := by decide
theorem test_wf_accepts : [Instr.fill 0xFFFF, .rect true 0, .pixelGet 0, .blit true 0, .rotate 270,
    .init 0, .run 0, .deinit 0].all Instr.wellFormed = true := by decide

/-! ### Decoding, one word per constructor, written bit by bit -/

theorem test_decode_fill :
    decodeWord .cmd (word 0b0000000000011111 0b0000000 0b0 0b00000001) = .instr (.fill 0x001F) := by
  decide
theorem test_decode_fillRect :
    decodeWord .cmd (word 0b1111111111111111 0b0000000 0b0 0b00000010) =
      .instr (.fillRect 0xFFFF) := by decide
theorem test_decode_rect :
    decodeWord .cmd (word 0b1111100000000000 0b0000000 0b0 0b00000011) =
      .instr (.rect false 0xF800) := by decide
theorem test_decode_rectF :
    decodeWord .cmd (word 0b1111100000000000 0b0000000 0b1 0b00000011) =
      .instr (.rect true 0xF800) := by decide
theorem test_decode_hline :
    decodeWord .cmd (word 0b0000011111100000 0b0000000 0b0 0b00000100) =
      .instr (.hline 0x07E0) := by decide
theorem test_decode_vline :
    decodeWord .cmd (word 0b0000000000011111 0b0000000 0b0 0b00000101) =
      .instr (.vline 0x001F) := by decide
theorem test_decode_line :
    decodeWord .cmd (word 0b0001001000110100 0b0000000 0b0 0b00000110) =
      .instr (.line 0x1234) := by decide
theorem test_decode_pixelSet :
    decodeWord .cmd (word 0b0001001000110100 0b0000000 0b0 0b00000111) =
      .instr (.pixelSet 0x1234) := by decide
theorem test_decode_pixelGet :
    decodeWord .cmd (word 0b1010101111001101 0b0000000 0b0 0b00001000) =
      .instr (.pixelGet 0xABCD) := by decide
theorem test_decode_blit :
    decodeWord .cmd (word 0b0000000000000000 0b0000000 0b0 0b00001001) =
      .instr (.blit false 0) := by decide
theorem test_decode_blitK :
    decodeWord .cmd (word 0b0000000000000000 0b0000000 0b1 0b00001001) =
      .instr (.blit true 0) := by decide
theorem test_decode_rotate :
    decodeWord .cmd (word 0b0000000001011010 0b0000000 0b0 0b00001010) =
      .instr (.rotate 90) := by decide
theorem test_decode_init :
    decodeWord .ctrl ((0b00000000000000000000000000000 : BitVec 29) ++ (0b001 : BitVec 3)) =
      .instr (.init 0) := by decide
theorem test_decode_run :
    decodeWord .ctrl ((0b00000000000000000000000000000 : BitVec 29) ++ (0b010 : BitVec 3)) =
      .instr (.run 0) := by decide
theorem test_decode_deinit :
    decodeWord .ctrl ((0b10000000000000000000000000000 : BitVec 29) ++ (0b100 : BitVec 3)) =
      .instr (.deinit 0b10000000000000000000000000000) := by decide
/-- The refusals, one per name (VK3, VK4, VK6, VK7, VC15, VC16). -/
theorem test_decode_rejects :
    decodeWord .cmd (word 0 0 0 0b00000000) = .reject .reservedOpcode ∧
    decodeWord .cmd (word 0 0 0 0b00001011) = .reject .reservedOpcode ∧
    decodeWord .cmd (word 0 0b0000001 0 0b00000001) = .reject .reservedBits ∧
    decodeWord .cmd (word 0 0 0b1 0b00000111) = .reject .flagNotAllowed ∧
    decodeWord .ctrl 0x8 = .reject .noAction ∧ decodeWord .ctrl 0x3 = .reject .severalActions ∧
    decodeBytes .cmd [0x01, 0x00, 0x1F] = .reject .shortWord := by decide
/-- The opcode table's numbering: 16 bits for a CMD row without IMM, 8 for a CTRL row. -/
theorem test_decode_table :
    decodeTableWord 16 0x0002 = some (.fillRect 0) ∧ decodeTableWord 8 0x04 = some (.deinit 0) := by
  decide

/-! ### The commands -/

/-- VF1 -/
theorem test_fill : (issue ready4 0x001F0001 17).fb = pixels 0 (List.replicate 16 0x001F) := by decide
/-- VF3 -/
theorem test_fill_flag : (issue ready4 0x001F0101 0).err = 0x10 := by decide
/-- VF4, two of its four pixels written: the order -/
theorem test_fillRect_order :
    (issueXY ready4 0x00010001 0x00020002 0xFFFF0002 2).fb = painted 0xFFFF [(1, 1), (2, 1)] := by
  decide
/-- 44_raster_blit_rotate R360, R375: the first write of a BLIT clipped at the left is the sprite's pixel
(1, 0), the third of a ROTATE by 90 the destination's (0, 1) -/
theorem test_blit_rotate_order :
    (issueXY { ready 2 2 [] with scr := pixels 0 [1, 2, 3, 4] } 0x0000FFFF 0x00020002 0x00000009 2).fb =
      pixels 0 [2] ∧
    (issueXY { ready 2 2 [] with arg3 := 0x100, scr := pixels 0 [1, 2, 3, 4, 5, 6] }
      0 0x00020003 0x005A000A 6).scr = pixels 0 [1, 2, 3, 4, 5, 6] ++ pixels 0x100 [4, 1, 5] := by
  decide
/-- VF5 -/
theorem test_fillRect_clipped :
    (issueXY ready4 0x0003FFFF 0x00020004 0xFFFF0002 4).fb =
      painted 0xFFFF [(0, 3), (1, 3), (2, 3)] := by decide
/-- VR2 -/
theorem test_rect_clipped :
    (issueXY ready4 0xFFFFFFFF 0x00030003 0xF8000003 4).fb =
      painted 0xF800 [(1, 0), (0, 1), (1, 1)] := by decide
/-- VR8 -/
theorem test_rect_filled :
    (issueXY ready4 0x00010001 0x00020002 0xF8000103 5).fb =
      painted 0xF800 [(1, 1), (2, 1), (1, 2), (2, 2)] := by decide
/-- VH1 -/
theorem test_hline_clipped :
    (issueXY ready4 0x0000FFFE 0x00000004 0x07E00004 3).fb = painted 0x07E0 [(0, 0), (1, 0)] := by
  decide
/-- VH5: ARG1[31:16] is ignored -/
theorem test_hline_high_half :
    (issueXY ready4 0x00000000 0x12340003 0x07E00004 4).fb =
      painted 0x07E0 [(0, 0), (1, 0), (2, 0)] := by decide
/-- VV1 -/
theorem test_vline_clipped :
    (issueXY ready4 0x00020003 0x00000005 0x001F0005 3).fb = painted 0x001F [(3, 2), (3, 3)] := by
  decide
/-- VV3 -/
theorem test_vline_negative :
    (issueXY ready4 0x00000000 0x0000FFFD 0x001F0005 1).fb = [] := by decide
/-- VL11 -/
theorem test_line_points :
    linePoints (-2) (-1) 4 2 = [(-2, -1), (-1, 0), (0, 0), (1, 1), (2, 1), (3, 2), (4, 2)] := by
  decide
/-- VL8 -/
theorem test_line_direction : linePoints 2 1 0 0 = [(2, 1), (1, 0), (0, 0)] := by decide
/-- VP1 -/
theorem test_pixelSet :
    (issueXY ready4 0x00000003 0 0x12340007 2).fb = [(6, 0x34), (7, 0x12)] := by decide
/-- VP5 -/
theorem test_pixelSet_outside : (issueXY ready4 0x0000FFFF 0 0xFFFF0007 1).fb = [] := by decide
/-- VP2 -/
theorem test_pixelGet :
    (issueXY (ready 4 4 [(6, 0x34), (7, 0x12)]) 0x00000003 0 0x00000008 2).result0 =
      0x00001234 := by decide
/-- VP3 -/
theorem test_pixelGet_outside :
    (issueXY ready4 0x00000004 0 0x00000008 1).result0 = 0xFFFFFFFF := by decide
/-- VB1 -/
theorem test_blit_keyed :
    (issueXY { ready 2 2 (pixels 0 [0x001F, 0x001F, 0x001F, 0x001F]) with
      scr := pixels 0 [0x0000, 0xF800, 0x07E0, 0x0000] } 0 0x00020002 0x00000109 7).fb =
      pixels 0 [0x001F, 0xF800, 0x07E0, 0x001F] := by decide
/-- VB4 -/
theorem test_blit_clipped :
    (issueXY { ready 2 2 (pixels 0 [0, 0, 0, 0]) with
      arg2 := 0x10, scr := pixels 0x10 [0x1111, 0x2222, 0x3333, 0x4444] }
      0x0000FFFF 0x00020002 0x00000009 5).fb = pixels 0 [0x2222, 0, 0x4444, 0] := by decide
/-- VT2 -/
theorem test_rotate_90 :
    let t := issueXY { ready 2 2 [] with arg3 := 0x100, scr := pixels 0 [1, 2, 3, 4, 5, 6] }
      0 0x00020003 0x005A000A 13
    t.scr = pixels 0 [1, 2, 3, 4, 5, 6] ++ pixels 0x100 [4, 1, 5, 2, 6, 3] ∧
      t.result1 = 0x00030002 := by decide
/-- VT11 -/
theorem test_rotate_overlap :
    (issueXY { ready 2 2 [] with arg3 := 0x004 } 0 0x00020003 0x005A000A 0).err = 0x04 := by decide
/-- VK2, VK9: BUSY comes before OP -/
theorem test_cmd_busy : (issue (issue ready4 0x001F0001 3) 0x0000000B 0).err = 0x08 := by decide
/-- VK10: STATE comes before OP -/
theorem test_cmd_state : (issue configured 0x0000000B 0).err = 0x01 := by decide

/-! ### Lifecycle -/

/-- VC1 -/
theorem test_init :
    let t := after (configured.writeCtrl 1)
    t.drv = .initializing ∧ t.route = pins ∧ t.err = 0 ∧ t.status = 0x9 := by decide
/-- VC5 -/
theorem test_init_shared_pad :
    (after ({ configured with pin := (pins.set 6 10).set 7 10 }.writeCtrl 1)).err = 0x02 := by decide
/-- VC7 -/
theorem test_run :
    let t := after ({ clearing 16 with eng := .idle, hcnt := 3, vcnt := 2 }.writeCtrl 2)
    t.drv = .running ∧ t.hcnt = 0 ∧ t.vcnt = 0 ∧ t.err = 0 := by decide
/-- VC6 -/
theorem test_run_clearing :
    let t := after ((clearing 5).writeCtrl 2)
    t.drv = .initializing ∧ t.eng = .clearing 5 ∧ t.err = 0x08 := by decide
/-- VC11 -/
theorem test_deinit_clearing :
    let t := after ((clearing 5).writeCtrl 4)
    t.drv = .stopped ∧ t.eng = .idle ∧ t.err = 0 := by decide
/-- VC10 -/
theorem test_deinit_busy :
    let t := after ((issue ready4 0x001F0001 3).writeCtrl 4)
    t.drv = .running ∧ t.err = 0x08 := by decide
/-- The clear's last pixel (45_lifecycle R405) -/
theorem test_clear_last :
    let t := (clearing 15).engineTurn
    t.fb = [(30, 0), (31, 0)] ∧ t.eng = .clearing 16 ∧ t.engineTurn.eng = .idle := by decide

/-! ### The bus -/

/-- VA5, VA4 -/
theorem test_res :
    (after (State.reset.write 0x00C .b4 0x04000200)).resW = 0x0200 ∧
    (after (State.reset.write 0x00C .b4 0x04000400)).err = 0x02 := by decide
/-- VA8, VA7 -/
theorem test_pin :
    (after (configured.write 0x114 .b4 0x1FF)).pin[5] = 0xFF ∧
    (after (configured.write 0x114 .b4 48)).err = 0x02 := by decide
/-- VA11, VA12 -/
theorem test_hsw_lock :
    (after ((clearing 0).write 0x020 .b4 5)).hsw = 5 ∧
    (after (ready4.write 0x020 .b4 5)).err = 0x01 := by decide
/-- VA18 -/
theorem test_err_clear :
    (after ({ ready4 with err := 0x3F }.write 0x008 .b4 0x05)).err = 0x3A := by decide
/-- VA16, VA14 -/
theorem test_reserved :
    (ready4.read 0x018 .b4).err = 0x20 ∧ (ready4.read 0x006 .b4).err = 0x20 := by decide
/-- VA21 -/
theorem test_sigstate :
    ({ ready4 with drv := .stopped, gpio := 0x19 }.sigstate .first) = 0x000000D9 := by decide
/-- VA25, VA24, VA23 -/
theorem test_fb_checks :
    ((clearing 0).read 0x100001 .b2).err = 0x20 ∧ ((clearing 0).read 0x100000 .b4).err = 0x01 ∧
    (ready4.read 0x100020 .b4).err = 0x20 := by decide
/-- VP8 -/
theorem test_fb_read :
    ((ready 4 4 (pixels 0 [0x1111, 0x2222])).read 0x100001 .b1).rdata = 0x11 ∧
    ((ready 4 4 (pixels 0 [0x1111, 0x2222])).read 0x100002 .b2).rdata = 0x2222 := by decide
/-- VA26 -/
theorem test_scr_write :
    ((after (State.reset.write 0x200000 .b4 0x12345678)).read 0x200003 .b1).rdata = 0x12 := by decide
/-- VA28 -/
theorem test_caps :
    State.reset.regValue .cap0 = 0x00100000 ∧ State.reset.regValue .cap1 = 0x00020000 ∧
    State.reset.regValue .cap2 = 0x00000030 := by decide
/-- S2 -/
theorem test_rgb565 : rgb565 0xC86432 = 0xCB26 := by decide

/-! ### The scan -/

/-- The panel of frame 1 (section 2.13) at a position. -/
def frame1 (v h : Nat) : State :=
  { ready 2 2 (pixels 0 [0x1111, 0x2222, 0x3333, 0x4444]) with
    hsw := 1, hbp := 1, hfp := 1, vsw := 1, vbp := 1, vfp := 1, hcnt := h, vcnt := v }

/-- Frame 1, (2, 3) and (4, 4) -/
theorem test_scan :
    (frame1 2 3).scanTurn.emitted = [⟨true, true, true, 0x2222⟩] ∧
    (frame1 4 4).scanTurn.emitted = [⟨true, true, false, 0⟩] ∧
    (frame1 4 4).scanTurn.hcnt = 0 ∧ (frame1 4 4).scanTurn.vcnt = 0 := by decide
/-- Pad vector of section 2.13, D = 0x1111, after the step that emits it -/
theorem test_pads :
    [9, 13, 17, 21].all ((frame1 2 2).scanTurn.padOut 0 .first) = true ∧
    [10, 12, 14, 20, 24].any ((frame1 2 2).scanTurn.padOut 0 .first) = false := by decide
/-- 41_timing_generator R237: D holds through the period, whatever is written to the pixel shown or to
the next -/
theorem test_pads_held :
    let t := after ((frame1 2 2).scanTurn.write 0x100000 .b4 0xFFFFFFFF)
    t.panelOut = ⟨true, true, true, 0x1111⟩ ∧ t.scanTurn.panelOut = ⟨true, true, true, 0xFFFF⟩ := by
  decide
/-- 41_timing_generator R242, R243: the first period after RUN, and idle levels after DEINIT -/
theorem test_panel_run_deinit :
    (after ({ clearing 16 with eng := .idle }.writeCtrl 2)).panelOut = ⟨false, false, false, 0⟩ ∧
    (after ((frame1 2 2).scanTurn.writeCtrl 4)).panelOut = ⟨true, true, false, 0⟩ := by decide

/-! ### The host script -/

/-- 30_encoding R158 -/
theorem test_script_fillR :
    Script.fillR (-1) 3 4 2 0x07E0 =
      [.txn (.write 0x044 .b4 0x0003FFFF), .txn (.write 0x048 .b4 0x00020004),
       .txn (.write 0x040 .b4 0x07E00002), .waitIdle] := by decide
/-- 30_encoding R157: `blit` of a 2 x 1 sprite kept at SCR offset 0x10 -/
theorem test_script_blit :
    Script.blitCall [0x1111, 0x2222] 0 0 2 1 0x10 =
      [.txn (.write 0x200010 .b2 0x1111), .txn (.write 0x200012 .b2 0x2222),
       .txn (.write 0x044 .b4 0), .txn (.write 0x048 .b4 0x00010002),
       .txn (.write 0x04C .b4 0x10), .txn (.write 0x040 .b4 0x109), .waitIdle] := by decide
/-- 30_encoding R157: `deinit()` that clears GPIO.BL; the first and the last address of `framebuffer()` -/
theorem test_script_deinit :
    Script.deinitCall (some 0b11001) =
      [.waitIdle, .txn (.write 0x000 .b4 4), .txn (.write 0x010 .b4 0x09)] ∧
    (Script.framebuffer 4 4).head? = some 0x100000 ∧
    (Script.framebuffer 4 4).getLast? = some 0x10001F := by decide

/-! ### The step -/

/-- The first instruction after reset: rejected with ERR.STATE, as 42_raster_fill R281 says of UNINIT -/
theorem test_step_first :
    (after (step (State.reset.withFetchWord 16 0x0001))).err = 0x01 := by decide

/-- 00_scope R13: `wait_idle` goes on while BUSY = 1 and ends once BUSY = 0 -/
theorem test_step_waitIdle :
    let waiting := fun s : State => { s with turns := [.host], hostQueue := [.waitIdle] }
    ((after (step (waiting (issue ready4 0x001F0001 3)))).hostQueue = [.waitIdle] ∧
      (after (step (waiting (issue ready4 0x001F0001 3)))).rdata = 0x6) ∧
    (after (step (waiting ready4))).hostQueue = [] ∧ (after (step (waiting ready4))).rdata = 0x2 := by
  decide

/-! ### Witnesses: for each statement with hypotheses, values that meet them together -/

/-- `s` with one agent to move next. -/
def turnOf (a : Agent) (s : State) : State := { s with turns := [a] }

/-- `s` with one host operation, the host moving next. -/
def hostOf (o : HostOp) (s : State) : State := { s with turns := [.host], hostQueue := [o] }

/-- 4 x 4, FILL executing at pixel 3. -/
def filling : State := issue ready4 0x001F0001 3

/-- The job FILL leaves in `filling`. -/
def fillJob : Job := { ready4.jobOf (.fill 0x001F) with k := 3 }

/-- A job of a command, its operands those of a 3 x 2 buffer at SCR 0 and 0x100. -/
def jobFor (i : Instr) : Job :=
  { cmd := i, a0 := 0, a1 := 0x00020003, a2 := 0, a3 := 0x100, key := 0, k := 0, held := none }

/-- STOPPED after INIT. -/
def stopped : State := { ready4 with drv := .stopped }

/-- 4 x 4, running, idle: the invariant of a state that commands run in. -/
theorem ready4_inv : ready4.Inv where
  build := by decide
  fbWf := List.Pairwise.nil
  scrWf := List.Pairwise.nil
  fbInside := fun c hc => nomatch hc
  scrInside := fun c hc => nomatch hc
  res := by decide
  hsync := by decide
  vsync := by decide
  pins := by decide
  routes := by decide
  unrouted := by decide
  locked := by decide
  lifecycle := by decide
  scan := by decide
  panelHeld := by decide
  panelIdle := by decide
  clear := fun _ h => nomatch h
  job := fun _ h => nomatch h

theorem witness_EncodeOfDecodedWord :
    decodeWord .cmd 0xF8000103 = .instr (.rect true 0xF800) ∧
    decodeWord .ctrl 0xFFFFFFFC = .instr (.deinit 0x1FFFFFFF) := by decide

/-- Legal at both ends of the opcode range and with FLAG where it is allowed; illegal one past each
end, with a reserved bit at each end of the field, and with FLAG next to RECT and BLIT. -/
theorem witness_CmdWordOpcodeMap :
    [0x00000001, 0xFFFF000A, 0x00000103, 0x00000109].all
      (fun c => decide (∃ i ∈ [Instr.fill 0, .rotate 0xFFFF, .rect true 0, .blit true 0],
        decodeCmd c = .instr i)) = true ∧
    [(0x00000000 : Word), 0x0000000B, 0x000000FF, 0x00000201, 0x00008001, 0x00000102, 0x0000010A].all
      (fun c => decide (∃ e ∈ [DecodeError.reservedOpcode, .reservedBits, .flagNotAllowed],
        decodeCmd c = .reject e)) = true := by decide

theorem witness_IllegalCmdWordRejected :
    ready4.acceptsCommands ∧ decodeCmd 0x0000000B = .reject .reservedOpcode ∧
    (0x0000000B : Word).extractLsb' 0 8 = 0x0B ∧ (0xFFFF0000 : Word).extractLsb' 0 8 = 0x00 := by decide

theorem witness_CtrlWriteActions : (0b011 : BitVec 3) ∉ [0b000#3, 0b001#3, 0b010#3, 0b100#3] ∧
    (0b111 : BitVec 3) ∉ [0b000#3, 0b001#3, 0b010#3, 0b100#3] := by decide

/-- A turn listed and a turn drawn; each operation of the host; each other agent. -/
theorem witness_StepRunsDecodedInstr :
    decodeBytes .cmd (bytesOfWord 0x001F0001) = .instr (.fill 0x001F) ∧
    (hostOf (portWrite .cmd 0x001F0001) ready4).nextAgent = .host ∧
    (hostOf (portWrite .cmd 0x001F0001) ready4).hostQueue = [portWrite .cmd 0x001F0001] ∧
    (hostOf (.txn (.write 0x040 .b4 0)) ready4).hostQueue = [.txn (.write 0x040 .b4 0)] ∧
    (hostOf (.txn (.read 0x004 .b4)) ready4).hostQueue = [.txn (.read 0x004 .b4)] ∧
    ((hostOf .waitIdle filling).hostQueue = [.waitIdle] ∧
      (hostOf .waitIdle filling).status.getLsbD 2 = true ∧ ready4.status.getLsbD 2 = false) ∧
    ((turnOf .host ready4).nextAgent = .host ∧ (turnOf .host ready4).hostQueue = []) ∧
    ready4.turns = [] ∧ (turnOf .scan ready4).turns = [.scan] ∧
    (turnOf .scan ready4).nextAgent = .scan ∧ (turnOf .engine ready4).nextAgent = .engine ∧
    (turnOf .reset ready4).nextAgent = .reset := by decide

/-- One state per check. -/
theorem witness_CmdWriteCheckOrder :
    decodeCmd 0x001F0001 = .instr (.fill 0x001F) ∧ configured.drv ≠ .running ∧
    (filling.drv = .running ∧ filling.eng ≠ .idle) ∧ ready4.acceptsCommands ∧
    decodeCmd 0x00000107 = .reject .flagNotAllowed ∧
    (ready4.jobOf (.rotate 45)).argsInvalid ready4.build.scrBytes = true ∧
    (ready4.jobOf (.rotate 90)).argsInvalid ready4.build.scrBytes = false := by decide

theorem witness_AcceptedCommandUsesItsCopies :
    ready4.acceptsCommands ∧ decodeCmd 0x00000109 = .instr (.blit true 0) ∧
    (ready4.jobOf (.blit true 0)).argsInvalid ready4.build.scrBytes = false := by decide

theorem witness_FillPaintsEveryPixel : ready4.acceptsCommands := by decide

/-- VF5: x = -1, partly outside -/
theorem witness_FillRectPaintsIntersection :
    let s := { ready4 with arg0 := 0x0003FFFF, arg1 := 0x00020004 }
    s.acceptsCommands ∧ (s.arg0.extractLsb' 0 16).toInt = -1 ∧ (s.arg0.extractLsb' 16 16).toInt = 3 ∧
    (s.arg1.extractLsb' 0 16).toInt = 4 ∧ (s.arg1.extractLsb' 16 16).toInt = 2 := by decide

/-- VR2 -/
theorem witness_RectPaintsWholeOrOutline :
    let s := { ready4 with arg0 := 0xFFFFFFFF, arg1 := 0x00030003 }
    s.acceptsCommands ∧ (s.arg0.extractLsb' 0 16).toInt = -1 ∧ (s.arg0.extractLsb' 16 16).toInt = -1 ∧
    (s.arg1.extractLsb' 0 16).toInt = 3 ∧ (s.arg1.extractLsb' 16 16).toInt = 3 := by decide

/-- VH1 -/
theorem witness_HlinePaintsRun :
    let s := { ready4 with arg0 := 0x0000FFFE, arg1 := 0x00000004 }
    s.acceptsCommands ∧ (s.arg0.extractLsb' 0 16).toInt = -2 ∧ (s.arg0.extractLsb' 16 16).toInt = 0 ∧
    (s.arg1.extractLsb' 0 16).toInt = 4 := by decide

/-- VV1 -/
theorem witness_VlinePaintsRun :
    let s := { ready4 with arg0 := 0x00020003, arg1 := 0x00000005 }
    s.acceptsCommands ∧ (s.arg0.extractLsb' 0 16).toInt = 3 ∧ (s.arg0.extractLsb' 16 16).toInt = 2 ∧
    (s.arg1.extractLsb' 0 16).toInt = 5 := by decide

/-- VF10 (w = 0), VF11 (h = -1) and VV3 (len = -3) -/
theorem witness_NonPositiveSizesDrawNothing :
    ready4.acceptsCommands ∧ ((0x00040000 : Word).extractLsb' 0 16).toInt = 0 ∧
    ((0xFFFF0004 : Word).extractLsb' 16 16).toInt = -1 ∧
    ((0x0000FFFD : Word).extractLsb' 0 16).toInt = -3 := by decide

/-- VL11 -/
theorem witness_LinePaintsItsPoints :
    let s := { ready4 with arg0 := 0xFFFFFFFE, arg1 := 0x00020004 }
    s.acceptsCommands ∧ (s.arg0.extractLsb' 0 16).toInt = -2 ∧ (s.arg0.extractLsb' 16 16).toInt = -1 ∧
    (s.arg1.extractLsb' 0 16).toInt = 4 ∧ (s.arg1.extractLsb' 16 16).toInt = 2 := by decide

/-- Each major axis at its last point, the diagonal among them: line(0,0,2,1), (0,0,2,2), (0,0,1,2) -/
theorem witness_LinePointsJoinEnds :
    let d := fun (a b : BitVec 16) => (b.toInt - a.toInt).natAbs
    (d 0 1 ≤ d 0 2 ∧ 0 < d 0 2 ∧ 2 ≤ d 0 2) ∧ (d 0 2 ≤ d 0 2 ∧ 0 < d 0 2) ∧ d 0 1 < d 0 2 := by decide

/-- VP1 -/
theorem witness_PixelSetWritesItsPixel :
    let s := { ready4 with arg0 := 0x00000003 }
    s.acceptsCommands ∧ (s.arg0.extractLsb' 0 16).toInt = 3 ∧ (s.arg0.extractLsb' 16 16).toInt = 0 := by
  decide

/-- Inside at the last column, outside one past it -/
theorem witness_PixelGetReadsPixelOrSentinel :
    (let s := { ready4 with arg0 := 0x00000003 }
     s.acceptsCommands ∧ (s.arg0.extractLsb' 0 16).toInt = 3 ∧ (s.arg0.extractLsb' 16 16).toInt = 0 ∧
      inb s.width s.height 3 0) ∧
    (let s := { ready4 with arg0 := 0x00000004 }
     s.acceptsCommands ∧ (s.arg0.extractLsb' 0 16).toInt = 4 ∧ (s.arg0.extractLsb' 16 16).toInt = 0 ∧
      ¬inb s.width s.height 4 0) := by decide

/-- VB9: the sprite ends exactly at SCR_BYTES -/
theorem witness_BlitCopiesVisibleSprite :
    let s := { ready4 with arg0 := 0x0000FFFF, arg1 := 0x00020002, arg2 := 0x1FFF8 }
    s.acceptsCommands ∧ (s.arg0.extractLsb' 0 16).toInt = -1 ∧ (s.arg0.extractLsb' 16 16).toInt = 0 ∧
    (s.arg1.extractLsb' 0 16).toNat = 2 ∧ (s.arg1.extractLsb' 16 16).toNat = 2 ∧
    s.arg2.toNat = 0x1FFF8 ∧ 0x1FFF8 % 2 = 0 ∧ 0x1FFF8 + 2 * 2 * 2 ≤ s.build.scrBytes := by decide

theorem witness_BlitArgumentCheck : ready4.acceptsCommands := by decide

/-- VT12: the buffers are adjacent -/
theorem witness_RotateTurnsBuffer :
    let s := { ready4 with arg1 := 0x00020003, arg2 := 0, arg3 := 0x00C }
    s.acceptsCommands ∧ (s.arg1.extractLsb' 0 16).toNat = 3 ∧ (s.arg1.extractLsb' 16 16).toNat = 2 ∧
    s.arg2.toNat = 0 ∧ s.arg3.toNat = 12 ∧ (90 : BitVec 16) ∈ [(0 : BitVec 16), 90, 180, 270] ∧
    0 % 2 = 0 ∧ 12 % 2 = 0 ∧ 0 + 2 * 3 * 2 ≤ s.build.scrBytes ∧ 12 + 2 * 3 * 2 ≤ s.build.scrBytes ∧
    ¬(3 * 2 > 0 ∧ 0 < 12 + 2 * 3 * 2 ∧ 12 < 0 + 2 * 3 * 2) := by decide

theorem witness_RotateArgumentCheck : ready4.acceptsCommands := by decide

/-- The job at the end of its list; and a rejected ROTATE -/
theorem witness_RotateResultIsNewSize :
    (let j := { jobFor (.rotate 90) with k := 6 }
     let s := { ready4 with eng := .exec j }
     s.eng = .exec j ∧ j.cmd = .rotate 90 ∧ (j.ops s.width s.height).length ≤ j.k) ∧
    exec (.rotate 45) ready4 = .next (ready4.raise .arg) ∧
    ready4.raise .arg ≠ ready4.accept (.rotate 45) := ⟨by decide, rfl, by decide⟩

theorem witness_ClearZeroesStore : (clearing 0).eng = .clearing 0 := by decide

/-- One job of each kind; of the 3 x 2 buffer turned by 90 degrees the last pixel. -/
theorem witness_CommandsPerformInOrder :
    (jobFor (.fill 7)).cmd = .fill 7 ∧ (jobFor (.fillRect 7)).cmd = .fillRect 7 ∧
    (jobFor (.rect true 7)).cmd = .rect true 7 ∧ (jobFor (.hline 7)).cmd = .hline 7 ∧
    (jobFor (.vline 7)).cmd = .vline 7 ∧
    -- a state executing one, at its first pixel and at its end
    (let s := { ready4 with eng := .exec (jobFor (.fill 7)) }
     s.width = 4 ∧ s.height = 4 ∧ s.eng = .exec (jobFor (.fill 7)) ∧
      ((jobFor (.fill 7)).ops 4 4)[0]? = some (.setPix 0 0 7) ∧
      ((jobFor (.fill 7)).ops 4 4)[16]? = none) ∧
    (jobFor (.line 7)).cmd = .line 7 ∧ (jobFor (.blit true 0)).cmd = .blit true 0 ∧
    ((2 < 3 ∧ 1 < 2) ∧ inb 4 4 (0 + 2) (0 + 1)) ∧
    (jobFor (.rotate 90)).cmd = .rotate 90 ∧ (90 : BitVec 16) ∈ [(0 : BitVec 16), 90, 180, 270] ∧
    1 < 2 ∧ 2 < 3 := by decide

theorem witness_OperationsStayInside :
    Op.setPix 0 0 7 ∈ (jobFor (.pixelSet 7)).ops 4 4 ∧
    Op.getPix 0 0 ∈ (jobFor (.pixelGet 0)).ops 4 4 ∧
    Op.copyS 0 0 0 none ∈ (jobFor (.blit false 0)).ops 4 4 ∧
    Op.rotS 0 0x100 ∈ (jobFor (.rotate 0)).ops 4 4 := by decide

/-- The clear writes pixel 15, the last below 2*W*H = 32. -/
theorem witness_BytesAboveStoreKept :
    let s := turnOf .engine (clearing 15)
    step s = .next s.turnTaken.engineTurn ∧ s.turnTaken.engineTurn.fbEpoch = s.fbEpoch ∧
    s.storeBytes ≤ 32 := ⟨rfl, by decide, by decide⟩

/-- The clear before and at its end; FILL at an operation and past its list; each other operation. -/
theorem witness_EngineCompletes :
    (turnOf .engine filling).turns = List.replicate 1 .engine ++ [] ∧
    (clearing 5).eng = .clearing 5 ∧ 5 < (clearing 5).width * (clearing 5).height ∧
    ¬16 < (clearing 16).width * (clearing 16).height ∧ filling.eng = .exec fillJob ∧
    (fillJob.ops 4 4)[3]? = some (.setPix 3 0 0x001F) ∧ (fillJob.ops 4 4)[16]? = none ∧
    ((jobFor (.pixelGet 0)).ops 4 4)[0]? = some (.getPix 0 0) ∧
    ((jobFor (.blit true 0)).ops 4 4)[0]? = some (.copyS 0 0 0 (some 0)) ∧
    ((jobFor (.rotate 0)).ops 4 4)[0]? = some (.rotS 0 0x100) := by decide

/-- A turn of each agent, in a state in which it does something and one in which it does not. -/
theorem witness_AgentsChangeOnlyTheirOwn :
    (turnOf .scan ready4).nextAgent = .scan ∧ (turnOf .scan configured).drv ≠ .running ∧
    (turnOf .engine filling).nextAgent = .engine ∧ (turnOf .engine ready4).eng = .idle ∧
    (hostOf .waitIdle ready4).nextAgent = .host ∧
    step (turnOf .scan ready4) = .next (turnOf .scan ready4).turnTaken.scanTurn ∧
    step (turnOf .engine filling) = .next (turnOf .engine filling).turnTaken.engineTurn ∧
    (∃ t, step (hostOf .waitIdle ready4) = .next t ∧ t.drv = (hostOf .waitIdle ready4).drv) := by
  refine ⟨rfl, by decide, rfl, rfl, rfl, rfl, rfl, _, rfl, rfl⟩

/-- A PIXEL_GET and a ROTATE at their last turn. -/
theorem witness_ResultsChangeOnlyAtCompletion :
    (let s := turnOf .engine { ready4 with eng := .exec { jobFor (.pixelGet 0) with
        k := 1, held := some 0x1234 } }
     step s = .next s.turnTaken.engineTurn ∧ s.nextAgent ≠ .reset ∧
      s.turnTaken.engineTurn.result0 ≠ s.result0) ∧
    (let s := turnOf .engine { ready4 with eng := .exec { jobFor (.rotate 90) with k := 6 } }
     step s = .next s.turnTaken.engineTurn ∧ s.nextAgent ≠ .reset ∧
      s.turnTaken.engineTurn.result1 ≠ s.result1) :=
  ⟨⟨rfl, by decide, by decide⟩, rfl, by decide, by decide⟩

/-- Each clause at a boundary of its range: the first and last active column, the last sync column. -/
theorem witness_ScanStepEmitsAndAdvances :
    configured.drv ≠ .running ∧ (frame1 2 2).drv = .running ∧ (frame1 0 0).hcnt < (frame1 0 0).hsw.toNat ∧
    ¬(frame1 0 1).hcnt < (frame1 0 1).hsw.toNat ∧ (frame1 2 2).deActive = true ∧
    (frame1 2 3).deActive = true ∧ (frame1 2 1).deActive = false ∧ (frame1 2 4).deActive = false := by
  decide

theorem witness_FrameShowsEveryPixelOnce :
    (turnOf .scan ready4).turns = List.replicate 1 .scan ++ [] ∧
    let s := frame1 0 0
    s.drv = .running ∧ s.hcnt = 0 ∧ s.vcnt = 0 ∧ s.hsw ≠ 0 ∧ s.vsw ≠ 0 ∧ 1 < s.width ∧ 1 < s.height ∧
    ¬((s.ha0 ≤ 4 ∧ 4 < s.ha0 + s.width) ∧ (s.va0 ≤ 4 ∧ 4 < s.va0 + s.height)) := by decide

theorem witness_IdleLevels : stopped.drv ≠ .running ∧ (clearing 0).drv ≠ .running := by decide

/-- A scan turn; and a host write to the pixel shown, between two scan turns. -/
theorem witness_PanelSignalsHeldForPeriod :
    (let s := turnOf .scan ready4
     s.Inv ∧ step s = .next s.turnTaken.scanTurn ∧ s.drv = .running ∧
      s.turnTaken.scanTurn.drv = .running ∧ s.nextAgent = .scan) ∧
    (let s := hostOf (.txn (.write 0x100000 .b2 7)) ready4
     s.Inv ∧ (∃ t, step s = .next t ∧ t.drv = .running) ∧ s.drv = .running ∧ s.nextAgent ≠ .scan) :=
  ⟨⟨{ ready4_inv with }, rfl, rfl, rfl, rfl⟩, { ready4_inv with }, ⟨_, rfl, rfl⟩, rfl, by decide⟩

/-- A period held, and the block right after RUN. -/
theorem witness_PadsFollowRouting_running :
    (let s := (frame1 2 2).scanTurn
     s.drv = .running ∧ s.panel = some ⟨true, true, true, 0x1111⟩) ∧
    ready4.drv = .running ∧ ready4.panel = none ∧ ready4.Inv :=
  ⟨by decide, by decide, by decide, ready4_inv⟩

theorem witness_PadsFollowRouting :
    ready4.drv ≠ .uninit ∧ pinsComplete ready4.build.npads ready4.route ∧ ready4.route[24] ≠ 0xFF ∧
    ready4.drv = .running := by decide

theorem witness_SigstateReadsDrivenLevels :
    (ready4.drv ≠ .uninit ∧ ready4.route[8] ≠ 0xFF) ∧
    ¬(configured.drv ≠ .uninit ∧ configured.route[0] ≠ 0xFF) := by decide

/-- RUN: INITIALIZING to RUNNING. -/
theorem witness_StateChangesOnlyByCtrlOrReset :
    let s := hostOf (.txn (.write 0x000 .b4 2)) { clearing 16 with eng := .idle }
    ∃ t, step s = .next t ∧ t.drv ≠ s.drv := ⟨_, rfl, by decide⟩

theorem witness_OnlyResetReturnsToUninit :
    let s := hostOf (.txn (.write 0x000 .b4 4)) ready4
    (∃ t, step s = .next t) ∧ s.nextAgent ≠ .reset ∧ s.drv ≠ .uninit ∧ s.Inv :=
  ⟨⟨_, rfl⟩, by decide, by decide,
    { ready4_inv with }⟩

theorem witness_InitAction :
    (clearing 0).drv = .initializing ∧ (State.reset.drv = .uninit ∧ State.reset.configInvalid = true) ∧
    (configured.drv = .uninit ∧ configured.configInvalid = false) ∧
    (stopped.drv = .stopped ∧ stopped.configInvalid = false) := by decide

theorem witness_RunAction :
    configured.drv ≠ .initializing ∧
    ((clearing 16).drv = .initializing ∧ (clearing 16).eng ≠ .idle) ∧
    (let s := { clearing 16 with eng := .idle }
     s.drv = .initializing ∧ s.eng = .idle) := by decide

theorem witness_DeinitAction :
    stopped.drv = .stopped ∧ (filling.drv = .running ∧ filling.eng = .exec fillJob) ∧
    ((clearing 5).drv = .initializing ∧ (clearing 5).eng.busy = false) ∧
    (ready4.drv = .running ∧ ready4.eng = .idle) := by decide

/-- From a clear ERR; it then speaks of the same access with ERR.ADDR already set. -/
theorem witness_RejectionIsPrecise :
    let s := { ready4 with err := 0x20 }
    { s with err := 0 }.write 0x018 .b4 7 = .next ({ s with err := 0 }.raise .addr) ∧
    ({ s with err := 0 }.raise .addr).err &&& ~~~0 ≠ 0 ∧
    ({ s with err := 0 }.read 0x018 .b4).err ≠ 0 := ⟨rfl, by decide, by decide⟩

/-- A write that clears bit 5, the last flag, and keeps bit 0. -/
theorem witness_ErrFlagsAreSticky :
    let s := hostOf (.txn (.write 0x008 .b4 0x20)) { ready4 with err := 0x21 }
    ∃ t, step s = .next t ∧ s.err.getLsbD 5 = true ∧ t.err.getLsbD 5 = false ∧
      t.err.getLsbD 0 = true := ⟨_, rfl, by decide⟩

/-- A narrow and a misaligned access at the top of the window; the ends of each reserved range, a reserved offset, and a state for each lock. -/
theorem witness_RegisterAccessRules :
    ((0xFFE : BitVec 22).toNat < 0x1000 ∧ Size.b2 ≠ .b4 ∧ (0xFFE : BitVec 22).toNat % 4 ≠ 0) ∧
    (0x1000 ≤ (0x001000 : BitVec 22).toNat ∧ (0x0FFFFF : BitVec 22).toNat < 0x100000) ∧
    0x300000 ≤ (0x300000 : BitVec 22).toNat ∧
    ((0x018 : BitVec 22).toNat < 0x1000 ∧ regAt 0x018 = none) ∧
    ((0x164 : BitVec 22).toNat < 0x1000 ∧ regAt 0x164 = none) ∧
    (clearing 0).drv = .initializing ∧ ready4.drv = .running := by decide

theorem witness_RegisterReadValues : stopped.drv ≠ .running ∧ ready4.drv = .running := by decide

theorem witness_RegisterWriteReadsBack :
    (stopped.drv = .uninit ∨ stopped.drv = .stopped) ∧ stopped.drv ≠ .running ∧
    (0x00010001 : Word).extractLsb' 0 16 ≠ 0 ∧ resLegal stopped.build.fbBytes 0x00010001 ∧
    pinLegal stopped.build.npads 0x0000002F := by decide

theorem witness_ConfigValueChecks :
    (configured.drv = .uninit ∨ configured.drv = .stopped) ∧ (clearing 0).drv ≠ .running := by decide

/-- The last byte of the store and the first above it, in RUNNING; a closed window. -/
theorem witness_MemoryWindowAccess_fb :
    31 < 0x100000 ∧ 31 % Size.b1.bytes = 0 ∧ ready4.drv = .running ∧
    ¬31 + Size.b1.bytes > 2 * ready4.width * ready4.height ∧
    32 + Size.b1.bytes > 2 * ready4.width * ready4.height ∧ 1 % Size.b2.bytes ≠ 0 ∧
    stopped.drv ≠ .running := by decide

theorem witness_MemoryWindowAccess_scr :
    0x1FFFC < 0x100000 ∧ ¬0x1FFFC + Size.b4.bytes > State.reset.build.scrBytes ∧
    0x20000 + Size.b4.bytes > State.reset.build.scrBytes ∧ 2 % Size.b4.bytes ≠ 0 := by decide

/-- The last byte of a word, the bytes beside it, the other memory; pixel (3, 0) of 4 x 4 and the pixel
after it, (0, 1). -/
theorem witness_WindowsAreLittleEndian :
    3 < Size.b4.bytes ∧ 7 < 8 ∧ 8 + Size.b4.bytes ≤ 12 ∧ Space.scr ≠ .fb ∧
    inb ready4.width ready4.height 3 0 ∧ ((6 : Nat) : Int) = 2 * (0 * ready4.width + 3) ∧
    inb ready4.width ready4.height 0 1 ∧ (1 : Int) * ready4.width + 0 = 0 * ready4.width + 3 + 1 := by
  decide

theorem witness_ResetValues : State.reset.build.legal := by decide

theorem witness_ResetMeetsInvariant : Params.reference.legal := by decide

theorem witness_StepKeepsInvariant :
    (turnOf .scan ready4).Inv ∧
      step (turnOf .scan ready4) = .next (turnOf .scan ready4).turnTaken.scanTurn :=
  ⟨{ ready4_inv with }, rfl⟩

/-- The scan emits; the clear, a command and the host write FB. -/
theorem witness_LifecycleInvariant :
    (let s := turnOf .scan ready4
     s.lifecycleOk ∧ step s = .next s.turnTaken.scanTurn ∧ s.turnTaken.scanTurn.emitted ≠ s.emitted) ∧
    ((turnOf .engine (clearing 0)).lifecycleOk ∧ (turnOf .engine filling).lifecycleOk ∧
      (hostOf (.txn (.write 0x100000 .b1 7)) ready4).lifecycleOk) ∧
    (let s := turnOf .engine (ready 4 4 [(0, 1)])
     let t := (turnOf .engine { ready 4 4 [(0, 1)] with
       eng := .exec (ready4.jobOf (.fill 7)) }).turnTaken.engineTurn
     t.fbEpoch = s.fbEpoch ∧ t.byteAt .fb 0 ≠ s.byteAt .fb 0) := by
  refine ⟨⟨by decide, rfl, by decide⟩, ⟨by decide, by decide, by decide⟩, by decide, by decide⟩

/-- Two states that differ in the byte at 100, above the store of 32 bytes, at a scan turn. -/
theorem witness_FbDrawNeverObserved :
    let s := turnOf .scan ready4
    let t := { s with fb := [(100, 7)] }
    s.Inv ∧ sameButUnseenFb s t ∧ step s = .next s.turnTaken.scanTurn ∧
      step t = .next t.turnTaken.scanTurn := by
  have hd : (turnOf .scan ready4).drv ≠ .initializing := by decide
  refine ⟨{ ready4_inv with },
    ⟨rfl, fun _ a ha => ?_, fun h => absurd h hd, fun h => absurd h hd⟩, rfl, rfl⟩
  have hs : (turnOf .scan ready4).storeBytes = 32 := by decide
  have : ¬100 = a := by omega
  simp [State.byteAt, Memory.get?, this, turnOf, ready4, ready, configured, State.reset,
    State.resetOf]

end Sys2Proof.Tests
end

/-! ### The step: what the turn taken, the host's turn and a bus write to a port are -/

namespace Sys2Proof.Machine

variable {s t : State}

/-- A word lies in its register little-endian and is read back whole (20_memory R103). -/
theorem wordOfBytes_extract (w : Word) :
    wordOfBytes (w.extractLsb' 0 8) (w.extractLsb' 8 8) (w.extractLsb' 16 8)
      (w.extractLsb' 24 8) = w := by
  simp only [wordOfBytes]
  rw [BitVec.extractLsb'_append_extractLsb'_eq_extractLsb' (by omega),
    BitVec.extractLsb'_append_extractLsb'_eq_extractLsb' (by omega),
    BitVec.extractLsb'_append_extractLsb'_eq_extractLsb' (by omega)]
  exact BitVec.extractLsb'_eq_self

@[simp] theorem decodeBytes_bytesOfWord (p : Port) (w : Word) :
    decodeBytes p (bytesOfWord w) = decodeWord p w := by
  simp only [bytesOfWord, decodeBytes, wordOfBytes_extract]

/-- A bus write of a word that decodes, to the word's port, is `exec` of its instruction. -/
theorem State.write_portAddr (s : State) {p : Port} {w : Word} {i : Instr}
    (h : decodeWord p w = .instr i) : s.write (portAddr p) .b4 w = exec i s := by
  cases p with
  | cmd =>
    have hw : s.write (portAddr .cmd) .b4 w = s.writeReg .cmd w := s.write_offset .cmd w
    have hd : decodeCmd w = .instr i := h
    rw [hw, State.writeReg_unlocked w rfl rfl]
    simp only [State.storeReg, State.writeCmd, hd]
  | ctrl =>
    have hw : s.write (portAddr .ctrl) .b4 w = s.writeReg .ctrl w := s.write_offset .ctrl w
    have hd : decodeCtrl w = .instr i := h
    rw [hw, State.writeReg_unlocked w rfl rfl]
    simp only [State.storeReg, State.writeCtrl, hd]

theorem State.status_busy (s : State) : s.status.getLsbD 2 = s.eng.busy := by
  unfold State.status
  generalize s.eng.isClearing = clearing, s.eng.busy = busy, s.drv.code = code
  revert clearing busy code
  decide

theorem State.status_clearing (s : State) : s.status.getLsbD 3 = s.eng.isClearing := by
  unfold State.status
  generalize s.eng.isClearing = clearing, s.eng.busy = busy, s.drv.code = code
  revert clearing busy code
  decide

/-! #### The turn taken -/

theorem State.nextAgent_cons {a : Agent} {rest : List Agent} (h : s.turns = a :: rest) :
    s.nextAgent = a := by
  simp [State.nextAgent, h]

theorem State.nextAgent_nil (h : s.turns = []) : s.nextAgent = Config.freeTurn s.turnDraws := by
  simp [State.nextAgent, h]

theorem State.turnTaken_cons {a : Agent} {rest : List Agent} (h : s.turns = a :: rest) :
    s.turnTaken = { s with turns := rest } := by
  simp [State.turnTaken, h]

theorem State.turnTaken_nil (h : s.turns = []) :
    s.turnTaken = { s with turnDraws := s.turnDraws + 1 } := by
  simp [State.turnTaken, h]

@[simp] theorem State.turnTaken_drv (s : State) : s.turnTaken.drv = s.drv := by
  rw [s.turnTaken_eq]

@[simp] theorem State.turnTaken_emitted (s : State) : s.turnTaken.emitted = s.emitted := by
  rw [s.turnTaken_eq]

@[simp] theorem State.turnTaken_hostQueue (s : State) : s.turnTaken.hostQueue = s.hostQueue := by
  rw [s.turnTaken_eq]

@[simp] theorem State.turnTaken_status (s : State) : s.turnTaken.status = s.status := by
  rw [s.turnTaken_eq]; rfl

@[simp] theorem State.turnTaken_periodOut (s : State) : s.turnTaken.periodOut = s.periodOut := by
  rw [s.turnTaken_eq]; rfl

/-! #### The host's turn -/

theorem State.hostTurn_nil (h : s.hostQueue = []) : s.hostTurn = .next s := by
  simp only [State.hostTurn, h]

theorem State.hostTurn_txn {x : Txn} {q : List HostOp} (h : s.hostQueue = .txn x :: q) :
    s.hostTurn = { s with hostQueue := q }.transact x := by
  simp only [State.hostTurn, h]

/-- A poll returns STATUS and ends the `wait_idle` once BUSY = 0 and CLEARING = 0. -/
theorem State.hostTurn_waitIdle {q : List HostOp} (h : s.hostQueue = .waitIdle :: q) :
    s.hostTurn = .next { s with
      rdata := s.status
      hostQueue := if s.status.getLsbD 2 = false ∧ s.status.getLsbD 3 = false then q
        else .waitIdle :: q } := by
  have hread : s.readReg .status = { s with rdata := s.status } := rfl
  simp only [State.hostTurn, h, hread, State.status_busy, State.status_clearing]
  by_cases hidle : s.eng.busy = false ∧ s.eng.isClearing = false
  · rw [if_pos hidle, if_neg (by simp [hidle])]
  · rw [if_neg hidle, if_pos (by simpa [Decidable.or_iff_not_not_and_not] using hidle), ← h]

/-! #### The step of each agent -/

theorem step_host (h : s.nextAgent = .host) : step s = s.turnTaken.hostTurn := by
  rw [step, h]; rfl

theorem step_host_txn {x : Txn} {q : List HostOp} (h : s.nextAgent = .host)
    (hq : s.hostQueue = .txn x :: q) :
    step s = { s.turnTaken with hostQueue := q }.transact x := by
  rw [step_host h, State.hostTurn_txn (s.turnTaken_hostQueue.trans hq)]

theorem step_host_waitIdle {q : List HostOp} (h : s.nextAgent = .host)
    (hq : s.hostQueue = .waitIdle :: q) :
    step s = .next { s.turnTaken with
      rdata := s.status
      hostQueue := if s.status.getLsbD 2 = false ∧ s.status.getLsbD 3 = false then q
        else .waitIdle :: q } := by
  rw [step_host h, State.hostTurn_waitIdle (s.turnTaken_hostQueue.trans hq),
    State.turnTaken_status]

theorem step_scan (h : s.nextAgent = .scan) : step s = .next s.turnTaken.scanTurn := by
  rw [step, h]; rfl

theorem step_engine (h : s.nextAgent = .engine) : step s = .next s.turnTaken.engineTurn := by
  rw [step, h]; rfl

theorem step_reset (h : s.nextAgent = .reset) : step s = .next s.turnTaken.resetTurn := by
  rw [step, h]; rfl

/-- Settles O7, from the equations of the turn taken, of the host's turn and of a write to a port. -/
theorem stepRunsDecodedInstr : Obligations.StepRunsDecodedInstr := by
  intro s
  refine ⟨fun a rest h => ⟨State.nextAgent_cons h, State.turnTaken_cons h⟩,
    fun h => ⟨State.nextAgent_nil h, State.turnTaken_nil h⟩,
    fun hhost => ⟨fun p w i q hdec hq => ?_, fun a n v q hq => step_host_txn hhost hq,
      fun a n q hq => step_host_txn hhost hq, fun q hq => step_host_waitIdle hhost hq,
      fun hq => ?_⟩,
    step_scan, step_engine, step_reset⟩
  · rw [decodeBytes_bytesOfWord] at hdec
    rw [step_host_txn hhost hq]
    exact State.write_portAddr _ hdec
  · rw [step_host hhost, State.hostTurn_nil (s.turnTaken_hostQueue.trans hq)]

end Sys2Proof.Machine

/-! ### What the timing signals show depends on, and who changes it -/

namespace Sys2Proof.Machine

variable {s t : State}

/-- The fields that, in RUNNING, settle what the timing signals show until the next scan step: the
tuple held, and what gives the first tuple where none is held yet (41_timing_generator R240, R242). -/
def State.timing (s : State) : Option PanelOut × BitVec 4 × BitVec 16 × BitVec 16 × Nat × Nat :=
  (s.panel, s.pol, s.hsw, s.vsw, s.hcnt, s.vcnt)

@[simp] theorem State.turnTaken_timing (s : State) : s.turnTaken.timing = s.timing := by
  rw [s.turnTaken_eq]; rfl

theorem State.timing_eq_iff : t.timing = s.timing ↔
    t.panel = s.panel ∧ t.pol = s.pol ∧ t.hsw = s.hsw ∧ t.vsw = s.vsw ∧ t.hcnt = s.hcnt ∧
      t.vcnt = s.vcnt := by
  simp [State.timing]

/-- In RUNNING an instruction that keeps the block there neither restarts the scan nor stops it. -/
theorem ExecEffect.timing_eq {i : Instr} (h : ExecEffect s i t) (hs : s.drv = .running)
    (ht : t.drv = .running) : t.timing = s.timing := by
  cases h with
  | rejected f => rfl
  | accepted => rfl
  | init rsv hd => simp [hs] at hd
  | run rsv hd => simp [hs] at hd
  | deinit => cases ht

/-- In RUNNING the timing registers are locked (10_state R36(f)), so no bus write reaches them. -/
theorem WriteEffect.timing_eq (h : WriteEffect s t) (hs : s.drv = .running)
    (ht : t.drv = .running) : t.timing = s.timing := by
  cases h with
  | action i t h => exact h.timing_eq hs ht
  | hsw v hd | hbp v hd | hfp v hd | vsw v hd | vbp v hd | vfp v hd | pclkdiv v hd | pol v hd =>
    exact absurd hs hd
  | _ => rfl

theorem State.read_timing (s : State) (a : BitVec 22) (n : Size) :
    (s.read a n).timing = s.timing := by
  obtain ⟨f, h⟩ | ⟨r, h⟩ | ⟨v, h⟩ := s.read_cases a n <;> rw [h] <;> rfl

theorem HostEffect.timing_eq (h : HostEffect s t) (hs : s.drv = .running)
    (ht : t.drv = .running) : t.timing = s.timing := by
  cases h with
  | none => rfl
  | read a n rest => exact State.read_timing _ a n
  | write a n v rest _ t _ he => exact he.timing_eq hs ht
  | waiting => rfl
  | waited => rfl

/-- An operation of a command writes a memory and the engine's progress, no timing field. -/
theorem State.perform_timing (s : State) (j : Job) (op : Op) :
    (s.perform j op).timing = s.timing := by
  cases op with
  | setPix x y v => rfl
  | getPix x y => rfl
  | copyS src x y skip =>
    simp only [State.perform]
    split
    · rfl
    · split <;> rfl
  | rotS src dst =>
    simp only [State.perform]
    split <;> rfl

theorem State.finish_timing (s : State) (j : Job) : (s.finish j).timing = s.timing := by
  unfold State.finish
  split <;> rfl

theorem EngineEffect.timing_eq (h : EngineEffect s t) : t.timing = s.timing := by
  cases h with
  | idle => rfl
  | clear => rfl
  | cleared => rfl
  | perform j op => exact s.perform_timing j op
  | finish j => exact s.finish_timing j

/-- Within RUNNING only a scan step changes what the timing signals show. -/
theorem step_keeps_timing (h : step s = .next t) (hs : s.drv = .running) (ht : t.drv = .running)
    (ha : s.nextAgent ≠ .scan) : t.timing = s.timing := by
  rw [← s.turnTaken_timing]
  obtain ⟨-, he⟩ | ⟨hscan, -⟩ | ⟨-, rfl⟩ | ⟨-, rfl⟩ := step_cases h
  · exact he.timing_eq (s.turnTaken_drv.trans hs) ht
  · exact absurd hscan ha
  · exact s.turnTaken.engineTurn_cases.timing_eq
  · cases ht

/-- Before the first scan step the position is (0, 0), so the tuple shown reads no FB (R242). -/
theorem State.panelOut_congr (hinv : s.Inv) (hs : s.drv = .running) (ht : t.drv = .running)
    (h : t.timing = s.timing) : t.panelOut = s.panelOut := by
  obtain ⟨hpanel, hpol, hhsw, hvsw, hhcnt, hvcnt⟩ := State.timing_eq_iff.1 h
  cases hp : s.panel with
  | some o => rw [State.panelOut_held hs hp, State.panelOut_held ht (hpanel.trans hp)]
  | none =>
    obtain ⟨hh, hv⟩ := hinv.panelHeld hs hp
    rw [State.panelOut_first hs hp, State.panelOut_first ht (hpanel.trans hp),
      State.periodOut_start hh hv hinv.hsync hinv.vsync,
      State.periodOut_start (hhcnt.trans hh) (hvcnt.trans hv) (hhsw ▸ hinv.hsync)
        (hvsw ▸ hinv.vsync)]
    simp only [State.hspol, State.vspol, State.depol, hpol]

theorem State.scanTurn_panelOut (h : s.drv = .running) : s.scanTurn.panelOut = s.periodOut := by
  rw [State.scanTurn_running h]
  exact State.panelOut_held h rfl

theorem State.scanTurn_emitted (h : s.drv = .running) :
    s.scanTurn.emitted = s.periodOut :: s.emitted := by
  rw [State.scanTurn_running h]

/-- Settles O37: a scan step emits its tuple, and every other step keeps the timing fields. -/
theorem panelSignalsHeldForPeriod : Obligations.PanelSignalsHeldForPeriod := by
  intro s t hinv h hs ht
  constructor
  · intro hscan
    have hs' : s.turnTaken.drv = .running := s.turnTaken_drv.trans hs
    cases h.symm.trans (step_scan hscan)
    exact ⟨by rw [State.scanTurn_panelOut hs', State.turnTaken_periodOut],
      by rw [State.scanTurn_emitted hs', State.turnTaken_periodOut, State.turnTaken_emitted]⟩
  · intro hother
    have htiming := step_keeps_timing h hs ht hother
    have hpanel := State.panelOut_congr hinv hs ht htiming
    obtain ⟨-, hpol, -⟩ := State.timing_eq_iff.1 htiming
    exact ⟨hpanel, fun _ _ hi => State.level_congr hi (ht.trans hs.symm) hpol hpanel⟩

end Sys2Proof.Machine

/-! ### A turn of the host: one write, or a change of the read's own fields -/

namespace Sys2Proof.Machine

variable {s t : State}

@[simp] theorem State.turnTaken_build (s : State) : s.turnTaken.build = s.build := by
  rw [s.turnTaken_eq]

@[simp] theorem State.turnTaken_eng (s : State) : s.turnTaken.eng = s.eng := by
  rw [s.turnTaken_eq]

/-- A read changes at most the value returned, ERR and the draws of SIGSTATE (20_memory R111). -/
theorem State.read_frame (s : State) (a : BitVec 22) (n : Size) :
    s.read a n = { s with
      err := (s.read a n).err, rdata := (s.read a n).rdata, pclkDraws := (s.read a n).pclkDraws } := by
  obtain ⟨f, h⟩ | ⟨r, h⟩ | ⟨v, h⟩ := s.read_cases a n <;> rw [h] <;> rfl

/-- A host turn that is no write changes at most what a read changes, and the operations to come. -/
theorem HostEffect.write_or_frame (h : HostEffect s t) :
    (∃ a n v rest, s.hostQueue = .txn (.write a n v) :: rest ∧
      { s with hostQueue := rest }.write a n v = .next t) ∨
    t = { s with
      err := t.err, rdata := t.rdata, pclkDraws := t.pclkDraws, hostQueue := t.hostQueue } := by
  cases h with
  | none => exact .inr rfl
  | read a n rest => rw [State.read_frame]; exact .inr rfl
  | write a n v rest hq t ht => exact .inl ⟨a, n, v, rest, hq, ht⟩
  | waiting => exact .inr rfl
  | waited => exact .inr rfl

/-! #### What no turn of the host changes -/

/-- What the host never changes, STATE or not (10_state R30). -/
def State.beyondHost (s : State) : Params × Word × Word × List PanelOut × Nat :=
  (s.build, s.result0, s.result1, s.emitted, s.scrEpoch)

/-- What the host changes only together with STATE: by INIT, RUN or DEINIT. -/
def State.heldWithState (s : State) : Vector Byte 25 × Nat × Nat × Option PanelOut × Nat :=
  (s.route, s.hcnt, s.vcnt, s.panel, s.fbEpoch)

theorem State.beyondHost_eq_iff : t.beyondHost = s.beyondHost ↔
    t.build = s.build ∧ t.result0 = s.result0 ∧ t.result1 = s.result1 ∧
      t.emitted = s.emitted ∧ t.scrEpoch = s.scrEpoch := by
  simp [State.beyondHost]

theorem State.heldWithState_eq_iff : t.heldWithState = s.heldWithState ↔
    t.route = s.route ∧ t.hcnt = s.hcnt ∧ t.vcnt = s.vcnt ∧ t.panel = s.panel ∧
      t.fbEpoch = s.fbEpoch := by
  simp [State.heldWithState]

@[simp] theorem State.turnTaken_beyondHost (s : State) :
    s.turnTaken.beyondHost = s.beyondHost := by
  rw [s.turnTaken_eq]; rfl

@[simp] theorem State.turnTaken_heldWithState (s : State) :
    s.turnTaken.heldWithState = s.heldWithState := by
  rw [s.turnTaken_eq]; rfl

theorem ExecEffect.beyondHost_eq {i : Instr} (h : ExecEffect s i t) :
    t.beyondHost = s.beyondHost := by
  cases h <;> rfl

theorem WriteEffect.beyondHost_eq (h : WriteEffect s t) : t.beyondHost = s.beyondHost := by
  cases h with
  | action i t h => exact h.beyondHost_eq
  | _ => rfl

theorem HostEffect.beyondHost_eq (h : HostEffect s t) : t.beyondHost = s.beyondHost := by
  obtain ⟨a, n, v, rest, -, hw⟩ | hframe := h.write_or_frame
  · exact (State.write_cases hw).beyondHost_eq
  · rw [hframe]; rfl

/-- The transitions of the lifecycle's table (10_state R38, 45_lifecycle R399), reset apart. -/
def DriverState.Transition (d e : DriverState) : Prop :=
  ((d = .uninit ∨ d = .stopped) ∧ e = .initializing) ∨
    (d = .initializing ∧ e = .running) ∨
    ((d = .initializing ∨ d = .running) ∧ e = .stopped)

theorem DriverState.Transition.ne {d e : DriverState} (h : d.Transition e) : e ≠ d := by
  rintro rfl
  obtain ⟨hd, he⟩ | ⟨hd, he⟩ | ⟨hd, he⟩ := h <;> simp [he] at hd

/-- An instruction keeps STATE and what changes with it, or is a CTRL action that takes one of the
table's transitions. -/
theorem ExecEffect.keeps_or_transition {i : Instr} (h : ExecEffect s i t) :
    (t.drv = s.drv ∧ t.heldWithState = s.heldWithState) ∨
      (i.port = .ctrl ∧ s.drv.Transition t.drv) := by
  cases h with
  | rejected => exact .inl ⟨rfl, rfl⟩
  | accepted => exact .inl ⟨rfl, rfl⟩
  | init rsv hd => exact .inr ⟨rfl, .inl ⟨hd, rfl⟩⟩
  | run rsv hd => exact .inr ⟨rfl, .inr (.inl ⟨hd, rfl⟩)⟩
  | deinit rsv hd => exact .inr ⟨rfl, .inr (.inr ⟨hd, rfl⟩)⟩

theorem WriteEffect.keeps_or_transition (h : WriteEffect s t) :
    (t.drv = s.drv ∧ t.heldWithState = s.heldWithState) ∨ s.drv.Transition t.drv := by
  cases h with
  | action i t h => exact h.keeps_or_transition.imp_right (·.2)
  | _ => exact .inl ⟨rfl, rfl⟩

theorem HostEffect.heldWithState_eq (h : HostEffect s t) (hd : t.drv = s.drv) :
    t.heldWithState = s.heldWithState := by
  obtain ⟨a, n, v, rest, -, hw⟩ | hframe := h.write_or_frame
  · obtain ⟨-, hheld⟩ | htrans := (State.write_cases hw).keeps_or_transition
    · exact hheld
    · exact absurd hd htrans.ne
  · rw [hframe]; rfl

/-! #### The turns of the scan and the engine -/

/-- A scan step changes the position, what was emitted and what is on the panel signals alone. -/
theorem State.scanTurn_frame (s : State) : s.scanTurn = { s with
    hcnt := s.scanTurn.hcnt, vcnt := s.scanTurn.vcnt
    emitted := s.scanTurn.emitted, panel := s.scanTurn.panel } := by
  by_cases hd : s.drv = .running
  · rw [State.scanTurn_running hd]
  · rw [State.scanTurn_stopped hd]

theorem State.perform_frame (s : State) (j : Job) (op : Op) : s.perform j op = { s with
    eng := (s.perform j op).eng, fb := (s.perform j op).fb, scr := (s.perform j op).scr } := by
  cases op with
  | setPix x y v => rfl
  | getPix x y => rfl
  | copyS src x y skip =>
    simp only [State.perform]
    split
    · rfl
    · split <;> rfl
  | rotS src dst =>
    simp only [State.perform]
    split <;> rfl

theorem State.finish_frame (s : State) (j : Job) : s.finish j = { s with
    eng := .idle, result0 := (s.finish j).result0, result1 := (s.finish j).result1 } := by
  unfold State.finish
  split <;> rfl

/-- The engine changes ENG, the memories and the result registers alone (10_state R30). -/
theorem EngineEffect.frame (h : EngineEffect s t) : t = { s with
    eng := t.eng, fb := t.fb, scr := t.scr, result0 := t.result0, result1 := t.result1 } := by
  cases h with
  | idle => rfl
  | clear => rfl
  | cleared => rfl
  | perform j op => rw [State.perform_frame]
  | finish j => rw [State.finish_frame]

/-- No agent changes the build. -/
theorem step_build (h : step s = .next t) : t.build = s.build := by
  rw [← s.turnTaken_build]
  obtain ⟨-, he⟩ | ⟨-, rfl⟩ | ⟨-, rfl⟩ | ⟨-, rfl⟩ := step_cases h
  · exact (State.beyondHost_eq_iff.1 he.beyondHost_eq).1
  · rw [State.scanTurn_frame]
  · rw [s.turnTaken.engineTurn_cases.frame]
  · rfl

/-- Settles O32, from the frame of each agent's turn. -/
theorem agentsChangeOnlyTheirOwn : Obligations.AgentsChangeOnlyTheirOwn := by
  intro s t h
  refine ⟨step_build h, fun hscan => ?_, fun hengine => ?_, fun hhost => ?_⟩
  · cases h.symm.trans (step_scan hscan)
    exact ⟨State.scanTurn_frame _,
      fun hs => State.scanTurn_stopped (by rwa [State.turnTaken_drv])⟩
  · cases h.symm.trans (step_engine hengine)
    refine ⟨s.turnTaken.engineTurn_cases.frame, fun hidle => ?_⟩
    simp only [State.engineTurn, State.turnTaken_eng, hidle]
  · have he : HostEffect s.turnTaken t := State.hostTurn_cases ((step_host hhost).symm.trans h)
    obtain ⟨-, hr0, hr1, hem, hep⟩ :=
      State.beyondHost_eq_iff.1 (he.beyondHost_eq.trans s.turnTaken_beyondHost)
    refine ⟨hr0, hr1, hem, hep, fun hd => State.heldWithState_eq_iff.1 ?_⟩
    exact (he.heldWithState_eq (hd.trans s.turnTaken_drv.symm)).trans s.turnTaken_heldWithState

/-! #### The result registers -/

/-- What a turn of the engine does to the result registers: nothing, or it completes the command
whose result one of them is. -/
theorem EngineEffect.results (h : EngineEffect s t) :
    (t.result0 = s.result0 ∨
      t.eng = .idle ∧ ∃ j imm, s.eng = .exec j ∧ j.cmd = .pixelGet imm) ∧
    (t.result1 = s.result1 ∨
      t.eng = .idle ∧ ∃ j angle, s.eng = .exec j ∧ j.cmd = .rotate angle) := by
  cases h with
  | idle => exact ⟨.inl rfl, .inl rfl⟩
  | clear => exact ⟨.inl rfl, .inl rfl⟩
  | cleared => exact ⟨.inl rfl, .inl rfl⟩
  | perform j op => rw [State.perform_frame]; exact ⟨.inl rfl, .inl rfl⟩
  | finish j hj =>
    unfold State.finish
    split
    · exact ⟨.inr ⟨rfl, j, _, hj, ‹_›⟩, .inl rfl⟩
    · exact ⟨.inl rfl, .inr ⟨rfl, j, _, hj, ‹_›⟩⟩
    · exact ⟨.inl rfl, .inl rfl⟩

@[simp] theorem State.turnTaken_result0 (s : State) : s.turnTaken.result0 = s.result0 := by
  rw [s.turnTaken_eq]

@[simp] theorem State.turnTaken_result1 (s : State) : s.turnTaken.result1 = s.result1 := by
  rw [s.turnTaken_eq]

/-- Settles O33: the host and the scan leave the result registers, the engine writes them at
completion only. -/
theorem resultsChangeOnlyAtCompletion : Obligations.ResultsChangeOnlyAtCompletion := by
  intro s t h hreset
  rw [← s.turnTaken_result0, ← s.turnTaken_result1, ← s.turnTaken_eng]
  obtain ⟨-, he⟩ | ⟨-, rfl⟩ | ⟨hengine, rfl⟩ | ⟨hr, -⟩ := step_cases h
  · obtain ⟨-, hr0, hr1, -⟩ := State.beyondHost_eq_iff.1 he.beyondHost_eq
    exact ⟨absurd hr0, absurd hr1⟩
  · rw [State.scanTurn_frame]
    exact ⟨absurd rfl, absurd rfl⟩
  · obtain ⟨h0, h1⟩ := s.turnTaken.engineTurn_cases.results
    exact ⟨fun hne => ⟨hengine, h0.resolve_left hne⟩, fun hne => ⟨hengine, h1.resolve_left hne⟩⟩
  · exact absurd hr hreset

end Sys2Proof.Machine

/-! ### STATE changes by a bus write to CTRL -/

namespace Sys2Proof.Machine

variable {s t : State}

theorem commandOf_port {op : BitVec 8} {flag : Bool} {imm : BitVec 16} {i : Instr}
    (h : commandOf op flag imm = some i) : i.port = .cmd := by
  unfold commandOf at h
  split at h <;> cases h <;> rfl

/-- A word that decodes at CMD is a raster command. -/
theorem decodeCmd_port {c : Word} {i : Instr} (h : decodeCmd c = .instr i) : i.port = .cmd := by
  unfold decodeCmd at h
  split at h
  · cases h
  · rename_i hcommand
    split at h
    · cases h
    · split at h
      · cases h
      · cases h; exact commandOf_port hcommand

/-- A write to CMD issues or rejects a command; it never changes STATE. -/
theorem State.writeCmd_drv {c : Word} (h : s.writeCmd c = .next t) : t.drv = s.drv := by
  unfold State.writeCmd at h
  split at h
  · rename_i i hi
    obtain ⟨hd, -⟩ | ⟨hctrl, -⟩ := (exec_cases h).keeps_or_transition
    · exact hd
    · rw [decodeCmd_port hi] at hctrl; cases hctrl
  · split at h
    · cases h; rfl
    · split at h <;> cases h <;> rfl

/-- Of the registers only CTRL changes STATE. -/
theorem State.storeReg_drv {r : Reg} {v : Word} (h : s.storeReg r v = .next t) (hr : r ≠ .ctrl) :
    t.drv = s.drv := by
  cases r with
  | ctrl => exact absurd rfl hr
  | cmd => exact State.writeCmd_drv h
  | res | hsw | vsw | pin =>
    simp only [State.storeReg] at h
    split at h <;> cases h <;> rfl
  | _ => cases h; rfl

theorem State.writeReg_drv {r : Reg} {v : Word} (h : s.writeReg r v = .next t) (hr : r ≠ .ctrl) :
    t.drv = s.drv := by
  unfold State.writeReg at h
  split at h
  · cases h; rfl
  · split at h
    · cases h; rfl
    · exact State.storeReg_drv h hr

/-! #### The window: which access reaches which register -/

theorem regionOf_eq_regs {a : BitVec 22} {off : Nat} (h : regionOf a = .regs off) :
    a.toNat = off := by
  simp only [regionOf] at h
  split at h
  · cases h; rfl
  · split at h
    · cases h
    · split at h
      · cases h
      · split at h <;> cases h

theorem regTarget_some {off : Nat} {n : Size} {r : Reg} (h : regTarget off n = some r) :
    n = .b4 ∧ r.offset = off := by
  unfold regTarget at h
  split at h
  · cases h
  · rename_i hgood
    exact ⟨by simpa using fun hn => hgood (.inl hn), regAt_some h⟩

/-- A bus write that changes STATE is a 4-byte write to CTRL. -/
theorem State.write_reaches_ctrl {a : BitVec 22} {n : Size} {v : Word}
    (h : s.write a n v = .next t) (hd : t.drv ≠ s.drv) : a = 0x000 ∧ n = .b4 := by
  unfold State.write at h
  split at h
  · rename_i off hregion
    split at h
    · cases h; exact absurd rfl hd
    · rename_i r htarget
      obtain ⟨hn, hoff⟩ := regTarget_some htarget
      have hr : r = .ctrl := by
        by_contra hne
        exact hd (State.writeReg_drv h hne)
      subst hr
      have ha : a.toNat = 0 := (regionOf_eq_regs hregion).trans hoff.symm
      exact ⟨BitVec.eq_of_toNat_eq ha, hn⟩
  · split at h <;> cases h <;> exact absurd rfl hd
  · split at h <;> cases h <;> exact absurd rfl hd
  · cases h; exact absurd rfl hd

/-- Neither the scan nor the engine changes STATE. -/
theorem State.scanTurn_drv (s : State) : s.scanTurn.drv = s.drv := by rw [State.scanTurn_frame]

theorem State.engineTurn_drv (s : State) : s.engineTurn.drv = s.drv := by
  rw [s.engineTurn_cases.frame]

/-- Settles O41: only the host's write to CTRL takes a transition, and reset goes to UNINIT. -/
theorem stateChangesOnlyByCtrlOrReset : Obligations.StateChangesOnlyByCtrlOrReset := by
  intro s t h hne
  rw [← s.turnTaken_drv] at hne ⊢
  obtain ⟨hhost, he⟩ | ⟨-, rfl⟩ | ⟨-, rfl⟩ | ⟨hreset, rfl⟩ := step_cases h
  · obtain ⟨a, n, v, rest, hq, hw⟩ | hframe := he.write_or_frame
    · obtain ⟨rfl, rfl⟩ := State.write_reaches_ctrl hw hne
      obtain ⟨hd, -⟩ | htrans := (State.write_cases hw).keeps_or_transition
      · exact absurd hd hne
      · exact .inr ⟨hhost, ⟨v, rest, by rwa [State.turnTaken_hostQueue] at hq⟩, htrans⟩
    · rw [hframe] at hne
      exact absurd rfl hne
  · exact absurd (State.scanTurn_drv _) hne
  · exact absurd (State.engineTurn_drv _) hne
  · exact .inl ⟨hreset, rfl⟩

end Sys2Proof.Machine

/-! ### Accesses to the register window -/

namespace Sys2Proof.Machine

variable {s : State}

/-! #### Rejected accesses -/

theorem regionOf_regs {a : BitVec 22} (h : a.toNat < 0x1000) : regionOf a = .regs a.toNat :=
  if_pos h

theorem regionOf_reserved {a : BitVec 22}
    (h : (0x1000 ≤ a.toNat ∧ a.toNat < 0x100000) ∨ 0x300000 ≤ a.toNat) :
    regionOf a = .reserved := by
  simp only [regionOf]
  rw [if_neg (by omega)]
  split
  · rfl
  · rw [if_neg (by omega), if_neg (by omega)]

/-- An access of another width than 4 bytes, or to an offset that is no register's, reaches none:
every register lies word-aligned, so a misaligned one too. -/
theorem regTarget_eq_none {off : Nat} {n : Size} (h : n ≠ .b4 ∨ ∀ r : Reg, r.offset ≠ off) :
    regTarget off n = none := by
  cases htarget : regTarget off n with
  | none => rfl
  | some r =>
    obtain ⟨hn, hoff⟩ := regTarget_some htarget
    exact (h.elim (· hn) (· r hoff)).elim

/-- A write or a read that reaches neither a register nor a memory window only sets ERR.ADDR; the
read returns 0. -/
theorem State.access_rejected {a : BitVec 22} {n : Size} (v : Word)
    (h : regionOf a = .reserved ∨ ∃ off, regionOf a = .regs off ∧ regTarget off n = none) :
    s.write a n v = .next (s.raise .addr) ∧ s.read a n = s.rejectRead .addr := by
  obtain hregion | ⟨off, hregion, htarget⟩ := h
  · simp only [State.write, State.read, hregion, and_self]
  · simp only [State.write, State.read, hregion, htarget, and_self]

theorem State.access_untargeted {a : BitVec 22} {n : Size} (v : Word) (ha : a.toNat < 0x1000)
    (h : n ≠ .b4 ∨ ∀ r : Reg, r.offset ≠ a.toNat) :
    s.write a n v = .next (s.raise .addr) ∧ s.read a n = s.rejectRead .addr :=
  State.access_rejected v (.inr ⟨_, regionOf_regs ha, regTarget_eq_none h⟩)

theorem State.write_readOnly {r : Reg} (v : Word) (hr : r.readOnly = true) :
    s.write (BitVec.ofNat 22 r.offset) .b4 v = .next (s.raise .addr) := by
  rw [State.write_offset, State.writeReg, if_pos hr]

theorem State.write_locked {r : Reg} (v : Word) (hr : r.readOnly = false)
    (hl : r.lock.locked s.drv = true) :
    s.write (BitVec.ofNat 22 r.offset) .b4 v = .next (s.raise .state) := by
  rw [State.write_offset, State.writeReg, if_neg (by simp [hr]), if_pos hl]

theorem config_locked {d : DriverState} (h : d = .initializing ∨ d = .running) :
    Lock.config.locked d = true := by
  obtain rfl | rfl := h <;> rfl

theorem config_open {d : DriverState} (h : d = .uninit ∨ d = .stopped) :
    Lock.config.locked d = false := by
  obtain rfl | rfl := h <;> rfl

theorem run_open {d : DriverState} (h : d ≠ .running) : Lock.run.locked d = false := by
  simpa [Lock.locked] using h

/-! #### What a read of a register returns -/

/-- A read of any register but SIGSTATE takes no draw: only the value returned changes. -/
theorem State.read_register {r : Reg} (h : r ≠ .sigstate) :
    s.read (BitVec.ofNat 22 r.offset) .b4 = { s with rdata := s.regValue r } := by
  rw [State.read_offset]
  simp only [State.readReg, State.drawsAfter, h, false_and, if_false]

/-- Settles O49, from the register map, the access classes and the locks. -/
theorem registerAccessRules : Obligations.RegisterAccessRules := by
  intro s v
  refine ⟨fun a n ha hbad => ?_, fun a hres n => ?_, fun r hr => ?_, fun r hr => ?_,
    fun r hr hd => ?_, fun r hr hd => ?_⟩
  · refine State.access_untargeted v ha (hbad.imp_right fun hmis r hoff => hmis ?_)
    rw [← hoff, r.offset_mem.2]
  · obtain hgap | hgap | ⟨ha, hoff⟩ := hres
    · exact State.access_rejected v (.inl (regionOf_reserved (.inl hgap)))
    · exact State.access_rejected v (.inl (regionOf_reserved (.inr hgap)))
    · exact State.access_untargeted v ha (.inr hoff)
  · have hro : ∀ r ∈ [Reg.status, .sigstate, .result0, .result1, .colorOut, .cap0, .cap1, .cap2],
        r.readOnly = true := by decide
    exact State.write_readOnly v (hro r hr)
  · obtain rfl | rfl : r = .ctrl ∨ r = .cmd := by simpa using hr
    · exact State.read_register (by decide)
    · exact State.read_register (by decide)
  · obtain rfl | ⟨i, rfl⟩ := hr
    · exact State.write_locked v rfl (config_locked hd)
    · exact State.write_locked v rfl (config_locked hd)
  · have hrun : ∀ r ∈ [Reg.hsw, .hbp, .hfp, .vsw, .vbp, .vfp, .pclkdiv, .pol],
        r.readOnly = false ∧ r.lock = .run := by decide
    obtain ⟨hro, hlock⟩ := hrun r hr
    exact State.write_locked v hro (by rw [hlock, hd]; rfl)

/-- The registers whose value no draw decides, PIN apart, in the order of the map (10_state R35). -/
def plainRegs : List Reg :=
  [.ctrl, .status, .err, .res, .gpio, .hsw, .hbp, .hfp, .vsw, .vbp, .vfp, .pclkdiv, .pol, .cmd,
    .arg0, .arg1, .arg2, .arg3, .result0, .result1, .key, .colorIn, .colorOut, .cap0, .cap1, .cap2]

/-- Outside RUNNING SIGSTATE's PCLK bit is the same in both halves: PCLKPOL (R241). -/
theorem State.sigstate_stopped (hd : s.drv ≠ .running) (h h' : Half) :
    s.sigstate h = s.sigstate h' := by
  have hlevel : s.level h = s.level h' := funext fun i => by
    simp only [State.level, State.pclkLevel, hd, false_and]
  simp only [State.sigstate, State.sigBit]
  rw [hlevel]

theorem State.read_sigstate (s : State) : s.read 0x014 .b4 = s.readReg .sigstate :=
  s.read_offset .sigstate

/-- Settles O50: every register but SIGSTATE by its value, SIGSTATE by the half drawn. -/
theorem registerReadValues : Obligations.RegisterReadValues := by
  intro s
  refine ⟨fun av hav => ?_, fun i => State.read_register (r := .pin i) (by simp),
    fun hd h => ?_, fun hd => ⟨s.drawHalf, ?_⟩⟩
  · change av ∈ plainRegs.map fun r => (BitVec.ofNat 22 r.offset, s.regValue r) at hav
    obtain ⟨r, hr, rfl⟩ := List.mem_map.1 hav
    refine State.read_register ?_
    rintro rfl
    exact absurd hr (by decide)
  · rw [State.read_sigstate, State.readReg]
    simp only [State.regValue, State.drawsAfter, hd, and_false, if_false,
      State.sigstate_stopped hd s.drawHalf h]
  · rw [State.read_sigstate, State.readReg]
    simp only [State.regValue, State.drawsAfter, hd, and_self, if_true]

/-! #### Checked values -/

/-- An unlocked bus write to a register that is not read-only stores or rejects its value. -/
theorem State.write_unlocked {r : Reg} (v : Word) (hr : r.readOnly = false)
    (hl : r.lock.locked s.drv = false) :
    s.write (BitVec.ofNat 22 r.offset) .b4 v = s.storeReg r v := by
  rw [State.write_offset, State.writeReg_unlocked v hr hl]

theorem lowHalf_eq_zero_iff {v : Word} : lowHalf v = 0 ↔ (v.extractLsb' 0 16).toNat = 0 :=
  BitVec.toNat_inj.symm

/-- Settles O52: the value check of each register, once its lock is open. -/
theorem configValueChecks : Obligations.ConfigValueChecks := by
  intro s v
  refine ⟨fun hd => ?_, fun hd => ?_, fun hd => ?_, fun i hd => ?_⟩
  · exact State.write_unlocked (r := .res) v rfl (config_open hd)
  · refine (State.write_unlocked (r := .hsw) v rfl (run_open hd)).trans ?_
    exact if_congr lowHalf_eq_zero_iff rfl rfl
  · refine (State.write_unlocked (r := .vsw) v rfl (run_open hd)).trans ?_
    exact if_congr lowHalf_eq_zero_iff rfl rfl
  · exact State.write_unlocked (r := .pin i) v rfl (config_open hd)

end Sys2Proof.Machine

/-! ### The words of CTRL, STATUS and SIGSTATE -/

namespace Sys2Proof.Machine

variable {s : State}

/-! #### CTRL -/

/-- Bits 2:0 of a CTRL word are its action bits. -/
theorem ctrlWord_getLsbD (rsv : BitVec 29) (b : BitVec 3) {i : Nat} (hi : i < 3) :
    (rsv ++ b).getLsbD i = b.getLsbD i := by
  rw [BitVec.getLsbD_append, if_pos hi]

theorem decodeCtrl_none (rsv : BitVec 29) : decodeCtrl (rsv ++ 0b000#3) = .reject .noAction := by
  simp only [decodeCtrl, ctrlWord_getLsbD, Nat.reduceLT]; rfl

theorem decodeCtrl_init (rsv : BitVec 29) : decodeCtrl (rsv ++ 0b001#3) = .instr (.init rsv) := by
  simp only [decodeCtrl, ctrlWord_getLsbD, Nat.reduceLT, BitVec.extractLsb'_append_eq_left]; rfl

theorem decodeCtrl_run (rsv : BitVec 29) : decodeCtrl (rsv ++ 0b010#3) = .instr (.run rsv) := by
  simp only [decodeCtrl, ctrlWord_getLsbD, Nat.reduceLT, BitVec.extractLsb'_append_eq_left]; rfl

theorem decodeCtrl_deinit (rsv : BitVec 29) :
    decodeCtrl (rsv ++ 0b100#3) = .instr (.deinit rsv) := by
  simp only [decodeCtrl, ctrlWord_getLsbD, Nat.reduceLT, BitVec.extractLsb'_append_eq_left]; rfl

theorem decodeCtrl_several (rsv : BitVec 29) {b : BitVec 3}
    (h : b ∉ [0b000#3, 0b001#3, 0b010#3, 0b100#3]) :
    decodeCtrl (rsv ++ b) = .reject .severalActions := by
  have hb : b = 0b011 ∨ b = 0b101 ∨ b = 0b110 ∨ b = 0b111 := by
    revert b; decide
  obtain rfl | rfl | rfl | rfl := hb <;> simp only [decodeCtrl, ctrlWord_getLsbD, Nat.reduceLT] <;> rfl

/-- Settles O5: what each value of bits 2:0 decodes to, and that no action reads bits 31:3. -/
theorem ctrlWriteActions : Obligations.CtrlWriteActions := by
  intro s rsv
  refine ⟨fun v => State.write_unlocked (r := .ctrl) v rfl rfl, ?_, ?_, ?_, ?_, fun b hb => ?_, rfl⟩
  · simp only [State.writeCtrl, decodeCtrl_none]
  · simp only [State.writeCtrl, decodeCtrl_init]; rfl
  · simp only [State.writeCtrl, decodeCtrl_run]; rfl
  · simp only [State.writeCtrl, decodeCtrl_deinit]; rfl
  · simp only [State.writeCtrl, decodeCtrl_several rsv hb]

/-! #### STATUS -/

theorem State.status_state (s : State) : s.status.extractLsb' 0 2 = s.drv.code :=
  BitVec.extractLsb'_append_eq_right

theorem State.status_above (s : State) {n : Nat} (h : 4 ≤ n) : s.status.getLsbD n = false := by
  have h2 : ¬n < 2 := by omega
  have h1 : ¬n - 2 < 1 := by omega
  have h1' : ¬n - 2 - 1 < 1 := by omega
  simp only [State.status, BitVec.getLsbD_append, h2, h1, h1', if_false, BitVec.ofNat_eq_ofNat,
    BitVec.getLsbD_zero]

theorem Engine.busy_iff {e : Engine} : e.busy = true ↔ ∃ j, e = .exec j := by
  cases e <;> simp [Engine.busy]

theorem Engine.isClearing_iff {e : Engine} : e.isClearing = true ↔ ∃ n, e = .clearing n := by
  cases e <;> simp [Engine.isClearing]

/-- Settles O40, field by field. -/
theorem statusFields : Obligations.StatusFields := by
  intro s
  refine ⟨?_, ?_, ?_, fun n => s.status_above⟩
  · rw [State.status_state]
    cases s.drv <;> rfl
  · rw [State.status_busy, Engine.busy_iff]
  · rw [State.status_clearing, Engine.isClearing_iff]

/-! #### SIGSTATE -/

/-- SIGSTATE lists the bits of the signals 0 to 8, the first at bit 0. -/
theorem State.sigstate_eq (s : State) (h : Half) :
    s.sigstate h = (BitVec.ofBoolListLE
      (List.ofFn fun k : Fin 9 => s.sigBit h (k.castLE (by decide)))).setWidth 32 := rfl

theorem State.sigstate_getLsbD (s : State) (h : Half) {i : Fin 25} (hi : i.val < 9) :
    (s.sigstate h).getLsbD i.val = s.sigBit h i := by
  have hw : i.val < 32 := by omega
  rw [State.sigstate_eq, BitVec.getLsbD_setWidth, BitVec.getLsbD_ofBoolListLE,
    List.getD_eq_getElem?_getD, List.getElem?_ofFn, dif_pos hi, decide_eq_true hw]
  rfl

theorem State.sigstate_above (s : State) (h : Half) {n : Nat} (hn : 9 ≤ n) :
    (s.sigstate h).getLsbD n = false := by
  rw [State.sigstate_eq, BitVec.getLsbD_setWidth, BitVec.getLsbD_ofBoolListLE,
    List.getD_eq_getElem?_getD, List.getElem?_ofFn, dif_neg (Nat.not_lt.2 hn)]
  exact Bool.and_false _

theorem State.signalDriven_iff {i : Fin 25} :
    s.signalDriven i = true ↔ s.drv ≠ .uninit ∧ s.route[i] ≠ 0xFF :=
  decide_eq_true_iff

/-- Settles O39: a bit is its signal's level where the signal is driven. -/
theorem sigstateReadsDrivenLevels : Obligations.SigstateReadsDrivenLevels := by
  intro s h
  refine ⟨fun i hi => ?_, fun n => s.sigstate_above h⟩
  rw [State.sigstate_getLsbD s h hi, State.sigBit]
  constructor
  · intro hdriven
    rw [State.signalDriven_iff.2 hdriven, Bool.true_and]
  · intro hundriven
    rw [Bool.eq_false_iff.2 (mt State.signalDriven_iff.1 hundriven), Bool.false_and]

end Sys2Proof.Machine

/-! ### FB bytes above the Framebuffer Store -/

namespace Sys2Proof.Machine

variable {s t : State}

/-! #### Operations stay inside the buffer -/

/-- The FB pixel an operation reads or writes, if any, is inside the buffer (42_raster_fill R286). -/
def Op.inside (W H : Nat) : Op → Prop
  | .setPix x y _ | .getPix x y | .copyS _ x y _ => inb W H x y
  | .rotS _ _ => True

theorem paintOps_inside {color : Pixel} {ps : List (Int × Int)} {W H : Nat}
    (hps : ∀ p ∈ ps, inb W H p.1 p.2) : ∀ op ∈ paintOps color ps, op.inside W H := by
  intro op hop
  obtain ⟨p, hp, rfl⟩ := List.mem_map.1 hop
  exact hps p hp

theorem rectPixels_inside {x y w h : Int} {W H : Nat} :
    ∀ p ∈ rectPixels x y w h W H, inb W H p.1 p.2 :=
  fun _ hp => (mem_rectPixels.1 hp).1

theorem opsFill_inside {color : Pixel} {W H : Nat} :
    ∀ op ∈ opsFill color W H, op.inside W H := by
  intro op hop
  obtain ⟨y, hy, hrow⟩ := List.mem_flatMap.1 hop
  obtain ⟨x, hx, rfl⟩ := List.mem_map.1 hrow
  exact ⟨mem_intRange.1 hx, mem_intRange.1 hy⟩

theorem opsRect_inside {filled : Bool} {color : Pixel} {j : Job} {W H : Nat} :
    ∀ op ∈ opsRect filled color j W H, op.inside W H := by
  unfold opsRect
  split
  · exact paintOps_inside rectPixels_inside
  · exact paintOps_inside fun p hp => rectPixels_inside p (List.mem_filter.1 hp).1

theorem opsLine_inside {color : Pixel} {j : Job} {W H : Nat} :
    ∀ op ∈ opsLine color j W H, op.inside W H :=
  paintOps_inside fun _ hp => of_decide_eq_true (List.mem_filter.1 hp).2

/-- PIXEL_SET and PIXEL_GET: one operation, where its pixel is inside the buffer. -/
theorem singleOp_inside {x y : Int} {op : Op} {W H : Nat} (h : inb W H x y → op.inside W H) :
    ∀ o ∈ (if inb W H x y then [op] else []), o.inside W H := by
  split
  · intro o ho
    rw [List.mem_singleton.1 ho]
    exact h ‹_›
  · simp

theorem opsBlit_inside {keyed : Bool} {j : Job} {W H : Nat} :
    ∀ op ∈ opsBlit keyed j W H, op.inside W H := by
  intro op hop
  obtain ⟨r, -, hrow⟩ := List.mem_flatMap.1 hop
  obtain ⟨i, -, hi⟩ := List.mem_filterMap.1 hrow
  split at hi
  · cases hi; assumption
  · cases hi

theorem opsRotate_inside {angle : BitVec 16} {j : Job} {W H : Nat} :
    ∀ op ∈ opsRotate angle j, op.inside W H := by
  intro op hop
  obtain ⟨yp, -, hrow⟩ := List.mem_flatMap.1 hop
  obtain ⟨xp, -, rfl⟩ := List.mem_map.1 hrow
  trivial

/-- No command touches a pixel outside the buffer. -/
theorem Job.ops_inside (j : Job) (W H : Nat) : ∀ op ∈ j.ops W H, op.inside W H := by
  unfold Job.ops
  split
  · exact opsFill_inside
  · exact paintOps_inside rectPixels_inside
  · exact opsRect_inside
  · exact paintOps_inside rectPixels_inside
  · exact paintOps_inside rectPixels_inside
  · exact opsLine_inside
  · exact singleOp_inside id
  · exact singleOp_inside id
  · exact opsBlit_inside
  · exact opsRotate_inside
  all_goals exact List.forall_mem_nil _

/-! #### Who writes FB, and where -/

/-- The clear's `n`-th pixel is inside the buffer. -/
theorem inb_clear {W H n : Nat} (h : n < W * H) :
    inb W H ((n % W : Nat) : Int) ((n / W : Nat) : Int) := by
  have hW : 0 < W := Nat.pos_of_mul_pos_right (Nat.zero_lt_of_lt h)
  exact ⟨⟨Int.natCast_nonneg _, Int.ofNat_lt.2 (Nat.mod_lt n hW)⟩,
    Int.natCast_nonneg _, Int.ofNat_lt.2 (Nat.div_lt_of_lt_mul h)⟩

variable {a : Nat}

theorem State.byteAt_perform_above (j : Job) {op : Op} (hop : op.inside s.width s.height)
    (ha : s.storeBytes ≤ a) : (s.perform j op).byteAt .fb a = s.byteAt .fb a := by
  cases op with
  | setPix x y v => exact s.byteAt_setPix_above v hop ha
  | getPix x y => rfl
  | copyS src x y skip =>
    simp only [State.perform]
    split
    · rename_i v _
      exact s.byteAt_setPix_above v hop ha
    · split <;> rfl
  | rotS src dst =>
    simp only [State.perform]
    split <;> rfl

theorem EngineEffect.byteAt_above (h : EngineEffect s t) (ha : s.storeBytes ≤ a) :
    t.byteAt .fb a = s.byteAt .fb a := by
  cases h with
  | idle => rfl
  | clear n _ hn => exact s.byteAt_setPix_above 0 (inb_clear hn) ha
  | cleared => rfl
  | perform j op _ hop =>
    exact State.byteAt_perform_above j (j.ops_inside _ _ op (List.mem_of_getElem? hop)) ha
  | finish j => rw [State.finish_frame]; rfl

/-- An instruction leaves the bytes of FB, or is a DEINIT, which makes them unspecified. -/
theorem ExecEffect.byteAt_fb {i : Instr} (h : ExecEffect s i t) (he : t.fbEpoch = s.fbEpoch) :
    t.byteAt .fb a = s.byteAt .fb a := by
  cases h with
  | rejected => rfl
  | accepted => rfl
  | init => rfl
  | run => rfl
  | deinit => exact absurd he (Nat.succ_ne_self _)

theorem WriteEffect.byteAt_above (h : WriteEffect s t) (he : t.fbEpoch = s.fbEpoch)
    (ha : s.storeBytes ≤ a) : t.byteAt .fb a = s.byteAt .fb a := by
  cases h with
  | action i t h => exact h.byteAt_fb he
  | fb off n v _ hb =>
    exact State.byteAt_memWrite_outside _ _ _ _
      (.inr (by rw [Size.dataBytes_length]; exact hb.trans ha))
  | _ => rfl

theorem HostEffect.byteAt_above (h : HostEffect s t) (he : t.fbEpoch = s.fbEpoch)
    (ha : s.storeBytes ≤ a) : t.byteAt .fb a = s.byteAt .fb a := by
  obtain ⟨a, n, v, rest, -, hw⟩ | hframe := h.write_or_frame
  · exact (State.write_cases hw).byteAt_above he ha
  · rw [hframe]; rfl

/-- Settles O30: the host's window and the engine's pixels end at `2*W*H`; reset, like DEINIT, makes
FB unspecified. -/
theorem bytesAboveStoreKept : Obligations.BytesAboveStoreKept := by
  intro s t h he a ha
  have hturn : s.turnTaken.storeBytes = s.storeBytes ∧ s.turnTaken.fbEpoch = s.fbEpoch ∧
      s.turnTaken.byteAt .fb a = s.byteAt .fb a := by
    rw [s.turnTaken_eq]; exact ⟨rfl, rfl, rfl⟩
  obtain ⟨hstore, hepoch, hbyte⟩ := hturn
  rw [← hbyte]
  rw [← hepoch] at he
  rw [← hstore] at ha
  obtain ⟨-, heff⟩ | ⟨-, rfl⟩ | ⟨-, rfl⟩ | ⟨-, rfl⟩ := step_cases h
  · exact heff.byteAt_above he ha
  · rw [State.scanTurn_frame]; rfl
  · exact s.turnTaken.engineTurn_cases.byteAt_above ha
  · exact absurd he (Nat.succ_ne_self _)

end Sys2Proof.Machine

/-! ### Accesses to the FB and SCR windows -/

namespace Sys2Proof.Machine

variable {s : State} {off : Nat} {n : Size}

/-! #### The checks of an access -/

theorem regionOf_fb (h : off < 0x100000) :
    regionOf (BitVec.ofNat 22 (0x100000 + off)) = .fb off := by
  have ha : (BitVec.ofNat 22 (0x100000 + off)).toNat = 0x100000 + off :=
    Nat.mod_eq_of_lt (by omega)
  simp only [regionOf, ha]
  rw [if_neg (by omega), if_neg (by omega), if_pos (by omega), Nat.add_sub_cancel_left]

theorem regionOf_scr (h : off < 0x100000) :
    regionOf (BitVec.ofNat 22 (0x200000 + off)) = .scr off := by
  have ha : (BitVec.ofNat 22 (0x200000 + off)).toNat = 0x200000 + off :=
    Nat.mod_eq_of_lt (by omega)
  simp only [regionOf, ha]
  rw [if_neg (by omega), if_neg (by omega), if_neg (by omega), if_pos (by omega),
    Nat.add_sub_cancel_left]

theorem misaligned_iff : misaligned off n = true ↔ off % n.bytes ≠ 0 := bne_iff_ne

/-- The checks of R108, in order. -/
theorem State.memCheck_fb :
    s.memCheck .fb off n =
      if off % n.bytes ≠ 0 then some .addr
      else if s.drv ≠ .running then some .state
      else if off + n.bytes > 2 * s.width * s.height then some .addr
      else none :=
  if_congr misaligned_iff rfl rfl

/-- The checks of R109, in order. -/
theorem State.memCheck_scr :
    s.memCheck .scr off n =
      if off % n.bytes ≠ 0 then some .addr
      else if off + n.bytes > s.build.scrBytes then some .addr
      else none :=
  if_congr misaligned_iff rfl rfl

/-- Settles O53: the address gives the window and the offset, whose checks then decide. -/
theorem memoryWindowAccess : Obligations.MemoryWindowAccess := by
  intro s off n v hoff
  simp only [State.write, State.read, regionOf_fb hoff, regionOf_scr hoff, State.memCheck_fb,
    State.memCheck_scr]
  -- Each clause now runs the same chain of checks on both sides.
  refine ⟨?_, ?_, ?_, ?_⟩ <;> split_ifs <;> rfl

/-! #### Little-endian bytes -/

theorem Size.dataBytes_getD (v : Word) {j : Nat} (hj : j < n.bytes) :
    (n.dataBytes v).getD j 0 = v.extractLsb' (8 * j) 8 := by
  have hn : n.bytes ≤ 4 := by cases n <;> decide
  have hj4 : j < 4 := hj.trans_le hn
  rw [Size.dataBytes, List.getD_eq_getElem?_getD, List.getElem?_take_of_lt hj]
  interval_cases j <;> rfl

/-- Byte `off + j` after an `n`-byte write is byte `j` of the data (20_memory R103). -/
theorem State.byteAt_memWrite_dataBytes (s : State) (sp : Space) (off : Nat) (v : Word) {j : Nat}
    (hj : j < n.bytes) :
    (s.memWrite sp off (n.dataBytes v)).byteAt sp (off + j) = v.extractLsb' (8 * j) 8 := by
  have hin : off ≤ off + j ∧ off + j < off + (n.dataBytes v).length :=
    ⟨Nat.le_add_right _ _, by rw [Size.dataBytes_length]; omega⟩
  rw [State.byteAt_memWrite, if_pos ⟨rfl, hin⟩, Nat.add_sub_cancel_left,
    Size.dataBytes_getD v hj]

theorem setWidth_low_bits (v : Word) (k : Nat) :
    (v.extractLsb' 0 k).setWidth 32 = BitVec.ofNat 32 (v.toNat % 2 ^ k) := by
  apply BitVec.eq_of_toNat_eq
  simp

theorem State.memRead_b2 (s : State) (sp : Space) (off : Nat) :
    s.memRead sp off .b2 = (s.pixelAt sp off).setWidth 32 := rfl

theorem State.memRead_b4 (s : State) (sp : Space) (off : Nat) :
    s.memRead sp off .b4 = s.pixelAt sp (off + 2) ++ s.pixelAt sp off :=
  BitVec.append_assoc.trans (BitVec.cast_eq _ _)

/-- Bits 7:0 of a pixel are the byte at its offset, bits 15:8 the next (20_memory R102). -/
theorem State.byteAt_pixelAt (s : State) (sp : Space) (off : Nat) :
    s.byteAt sp off = (s.pixelAt sp off).extractLsb' 0 8 ∧
      s.byteAt sp (off + 1) = (s.pixelAt sp off).extractLsb' 8 8 :=
  ⟨BitVec.extractLsb'_append_eq_right.symm, BitVec.extractLsb'_append_eq_left.symm⟩

/-- A pixel write stores the two bytes of the pixel and leaves every other. -/
theorem State.byteAt_memWrite_pixelBytes (s : State) (sp : Space) (off : Nat) (v : Pixel) :
    let t := s.memWrite sp off (pixelBytes v)
    t.byteAt sp off = v.extractLsb' 0 8 ∧ t.byteAt sp (off + 1) = v.extractLsb' 8 8 ∧
      ∀ a, a ≠ off → a ≠ off + 1 → t.byteAt sp a = s.byteAt sp a := by
  intro t
  have hpix : t.pixelAt sp off = v := s.pixelAt_memWrite_same sp off v
  obtain ⟨hlow, hhigh⟩ := t.byteAt_pixelAt sp off
  rw [hpix] at hlow hhigh
  exact ⟨hlow, hhigh, fun a h0 h1 =>
    State.byteAt_memWrite_outside _ _ _ _ (by rw [pixelBytes_length]; omega)⟩

/-- The pixel at byte `j` of an `n`-byte write that holds both its bytes. -/
theorem State.pixelAt_memWrite_dataBytes (s : State) (sp : Space) (off : Nat) (v : Word) {j : Nat}
    (hj : j + 1 < n.bytes) :
    (s.memWrite sp off (n.dataBytes v)).pixelAt sp (off + j) = v.extractLsb' (8 * j) 16 := by
  rw [State.pixelAt, Nat.add_assoc, State.byteAt_memWrite_dataBytes s sp off v hj,
    State.byteAt_memWrite_dataBytes s sp off v (Nat.lt_of_succ_lt hj)]
  exact BitVec.extractLsb'_append_extractLsb'_eq_extractLsb' (Nat.mul_succ 8 j)

/-- A read of the place of a write of the same size returns the bits written. -/
theorem State.memRead_memWrite_same (s : State) (sp : Space) (off : Nat) (n : Size) (v : Word) :
    (s.memWrite sp off (n.dataBytes v)).memRead sp off n =
      BitVec.ofNat 32 (v.toNat % 2 ^ (8 * n.bytes)) := by
  rw [← setWidth_low_bits]
  cases n with
  | b1 =>
    exact congrArg (BitVec.setWidth 32)
      (s.byteAt_memWrite_dataBytes sp off v (n := .b1) (j := 0) (by decide))
  | b2 =>
    exact congrArg (BitVec.setWidth 32)
      (s.pixelAt_memWrite_dataBytes sp off v (n := .b2) (j := 0) (by decide))
  | b4 =>
    have hlow := s.pixelAt_memWrite_dataBytes sp off v (n := .b4) (j := 0) (by decide)
    have hhigh := s.pixelAt_memWrite_dataBytes sp off v (n := .b4) (j := 2) (by decide)
    rw [Nat.add_zero] at hlow
    rw [State.memRead_b4, hhigh, hlow]
    exact (BitVec.extractLsb'_append_extractLsb'_eq_extractLsb' rfl).trans
      (BitVec.setWidth_eq _).symm

/-- Settles O54: what a write stores, then a pixel of FB at its offset, then a pixel of SCR. -/
theorem windowsAreLittleEndian : Obligations.WindowsAreLittleEndian := by
  refine ⟨fun s sp off n v => ?_, fun s x y o _ ho => ?_, fun s o => ?_⟩
  · refine ⟨fun j => s.byteAt_memWrite_dataBytes sp off v, s.memRead_memWrite_same sp off n v,
      fun a ha => ?_, fun sp' hsp a => ?_⟩
    · exact State.byteAt_memWrite_outside _ _ _ _ (by rwa [Size.dataBytes_length])
    · exact State.byteAt_memWrite_of_ne _ hsp.symm _ _ _
  · have hoff : pixOff s.width x y = o := by rw [pixOff]; omega
    have hpix : s.pix x y = s.pixelAt .fb o := by rw [State.pix, hoff]
    rw [hpix]
    refine ⟨s.byteAt_pixelAt .fb o, s.memRead_b2 .fb o, fun x' y' _ hnext => ?_, fun v => ?_⟩
    · have hoff' : pixOff s.width x' y' = o + 2 := by rw [pixOff]; omega
      rw [State.pix, hoff', State.memRead_b4]
    · rw [State.setPix, hoff]
      exact ⟨rfl, s.byteAt_memWrite_pixelBytes .fb o v⟩
  · exact ⟨s.byteAt_pixelAt .scr o, s.memRead_b2 .scr o,
      fun v => ⟨rfl, s.byteAt_memWrite_pixelBytes .scr o v⟩⟩

end Sys2Proof.Machine

/-! ### Encoding and decoding -/

namespace Sys2Proof.Machine

/-! #### The fields of a command word (30_encoding R150) -/

section
variable (imm : BitVec 16) (flag : Bool) (op : BitVec 8)

@[simp] theorem cmdOp_cmdWord : cmdOp (cmdWord imm flag op) = op :=
  BitVec.extractLsb'_append_eq_right

@[simp] theorem cmdFlag_cmdWord : cmdFlag (cmdWord imm flag op) = flag := by
  rw [cmdFlag, cmdWord, BitVec.getLsbD_append, BitVec.getLsbD_append]
  simp

@[simp] theorem cmdRsv_cmdWord : cmdRsv (cmdWord imm flag op) = 0 := by
  rw [cmdRsv, cmdWord, BitVec.extractLsb'_append_eq_of_le (by decide),
    BitVec.extractLsb'_append_eq_of_le (by decide)]
  exact BitVec.extractLsb'_append_eq_right

@[simp] theorem cmdImm_cmdWord : cmdImm (cmdWord imm flag op) = imm := by
  rw [cmdImm, cmdWord, BitVec.extractLsb'_append_eq_of_le (by decide),
    BitVec.extractLsb'_append_eq_of_le (by decide)]
  exact BitVec.extractLsb'_append_eq_left

end

theorem ofBool_cmdFlag (c : Word) : BitVec.ofBool (cmdFlag c) = c.extractLsb' 8 1 := by
  apply BitVec.eq_of_getLsbD_eq
  intro i hi
  obtain rfl : i = 0 := by omega
  simp [cmdFlag]

/-- A word whose reserved bits are 0 is put together from its fields. -/
theorem cmdWord_fields {c : Word} (hrsv : cmdRsv c = 0) :
    cmdWord (cmdImm c) (cmdFlag c) (cmdOp c) = c := by
  rw [cmdWord, ← hrsv, ofBool_cmdFlag, cmdImm, cmdRsv, cmdOp,
    BitVec.extractLsb'_append_extractLsb'_eq_extractLsb' (by omega),
    BitVec.extractLsb'_append_extractLsb'_eq_extractLsb' (by omega),
    BitVec.extractLsb'_append_extractLsb'_eq_extractLsb' (by omega)]
  exact BitVec.extractLsb'_eq_self

/-! #### The opcode map (30_encoding R153) -/

/-- FLAG is set for RECT and BLIT alone. -/
def FlagAllowed (op : BitVec 8) (flag : Bool) : Prop :=
  flag = true → op.toNat = 0x03 ∨ op.toNat = 0x09

theorem FlagAllowed.of_false (op : BitVec 8) : FlagAllowed op false := nofun

/-- The words R153 lets pass. IMM is not among what it tests (R154). -/
def CmdWordLegal (c : Word) : Prop :=
  (1 ≤ (cmdOp c).toNat ∧ (cmdOp c).toNat ≤ 10) ∧ cmdRsv c = 0 ∧ FlagAllowed (cmdOp c) (cmdFlag c)

/-- The rows of the opcode map, the last of them taken for every opcode that is in no other. -/
def commandRow (op : Nat) (flag : Bool) (imm : BitVec 16) : Instr :=
  if op = 0x01 then .fill imm
  else if op = 0x02 then .fillRect imm
  else if op = 0x03 then .rect flag imm
  else if op = 0x04 then .hline imm
  else if op = 0x05 then .vline imm
  else if op = 0x06 then .line imm
  else if op = 0x07 then .pixelSet imm
  else if op = 0x08 then .pixelGet imm
  else if op = 0x09 then .blit flag imm
  else .rotate imm

section
variable {op : BitVec 8} {flag : Bool} {imm : BitVec 16} {i : Instr}

theorem commandOf_eq_row (h : 1 ≤ op.toNat ∧ op.toNat ≤ 10) :
    commandOf op flag imm = some (commandRow op.toNat flag imm) := by
  obtain ⟨hlow, hhigh⟩ := h
  unfold commandOf
  generalize op.toNat = n at hlow hhigh
  interval_cases n <;> rfl

theorem opcode_range_of_commandOf (h : commandOf op flag imm = some i) :
    1 ≤ op.toNat ∧ op.toNat ≤ 10 := by
  unfold commandOf at h
  split at h
  case h_11 => cases h
  all_goals omega

/-- A row's instruction is encoded with the row's opcode, and with FLAG where it has one. -/
theorem encode_of_commandOf (h : commandOf op flag imm = some i) (hflag : FlagAllowed op flag) :
    encode i = cmdWord imm flag op := by
  have hop : BitVec.ofNat 8 op.toNat = op := (BitVec.ofNat_toNat 8 op).trans op.setWidth_eq
  rw [← hop]
  unfold commandOf at h
  unfold FlagAllowed at hflag
  generalize op.toNat = n at h hflag
  split at h
  case h_11 => cases h
  case h_3 | h_9 => cases h; rfl
  all_goals
    obtain rfl : flag = false := by simpa using hflag
    cases h; rfl

end

/-! #### The decoder of a CMD word -/

section
variable {c : Word} {i : Instr}

/-- The decoder's test of FLAG fails where FLAG is not allowed. -/
theorem flagTest_iff {op : BitVec 8} {flag : Bool} :
    ¬(flag = true ∧ op ≠ 0x03 ∧ op ≠ 0x09) ↔ FlagAllowed op flag := by
  simp only [FlagAllowed, not_and, not_not, ne_eq, ← BitVec.toNat_inj, ← or_iff_not_imp_left]
  rfl

theorem decodeCmd_eq_instr_iff :
    decodeCmd c = .instr i ↔
      commandOf (cmdOp c) (cmdFlag c) (cmdImm c) = some i ∧ cmdRsv c = 0 ∧
        FlagAllowed (cmdOp c) (cmdFlag c) := by
  unfold decodeCmd
  split
  · rename_i hnone
    rw [hnone]
    exact iff_of_false nofun nofun
  · rename_i j hj
    rw [hj, ← flagTest_iff]
    split_ifs with hrsv hflag
    · exact iff_of_false nofun fun ⟨_, hzero, _⟩ => hrsv hzero
    · exact iff_of_false nofun fun ⟨_, _, hallowed⟩ => hallowed hflag
    · rw [Decoded.instr.injEq, Option.some.injEq]
      exact (and_iff_left ⟨not_not.1 hrsv, hflag⟩).symm

theorem Decoded.exists_reject_iff {d : Decoded} : (∃ e, d = .reject e) ↔ ∀ i, d ≠ .instr i := by
  cases d <;> simp

theorem decodeCmd_of_legal (h : CmdWordLegal c) :
    decodeCmd c = .instr (commandRow (cmdOp c).toNat (cmdFlag c) (cmdImm c)) := by
  obtain ⟨hop, hrsv, hflag⟩ := h
  exact decodeCmd_eq_instr_iff.2 ⟨commandOf_eq_row hop, hrsv, hflag⟩

/-- A command word is rejected where it fails one of R153's tests. -/
theorem decodeCmd_rejects_iff : (∃ e, decodeCmd c = .reject e) ↔ ¬CmdWordLegal c := by
  rw [Decoded.exists_reject_iff]
  constructor
  · exact fun h hlegal => h _ (decodeCmd_of_legal hlegal)
  · intro h i hi
    obtain ⟨hrow, hrsv, hflag⟩ := decodeCmd_eq_instr_iff.1 hi
    exact h ⟨opcode_range_of_commandOf hrow, hrsv, hflag⟩

theorem decodeCmd_cmdWord {imm : BitVec 16} {flag : Bool} {op : BitVec 8}
    (hrow : commandOf op flag imm = some i) (hflag : FlagAllowed op flag) :
    decodeCmd (cmdWord imm flag op) = .instr i := by
  rw [decodeCmd_eq_instr_iff, cmdOp_cmdWord, cmdFlag_cmdWord, cmdImm_cmdWord]
  exact ⟨hrow, cmdRsv_cmdWord imm flag op, hflag⟩

end

/-! #### Encoding and decoding are inverse -/

theorem decodeWord_encode (i : Instr) : decodeWord i.port (encode i) = .instr i := by
  cases i with
  | rect => exact decodeCmd_cmdWord rfl fun _ => .inl rfl
  | blit => exact decodeCmd_cmdWord rfl fun _ => .inr rfl
  | init rsv => exact decodeCtrl_init rsv
  | run rsv => exact decodeCtrl_run rsv
  | deinit rsv => exact decodeCtrl_deinit rsv
  | _ => exact decodeCmd_cmdWord rfl (.of_false _)

/-- Settles O1: the bytes hold the whole word, and the word its instruction's fields. -/
theorem decodeOfEncodedInstr : Obligations.DecodeOfEncodedInstr := fun i =>
  (decodeBytes_bytesOfWord i.port (encode i)).trans (decodeWord_encode i)

theorem encode_of_decodeCmd {c : Word} {i : Instr} (h : decodeCmd c = .instr i) : encode i = c := by
  obtain ⟨hrow, hrsv, hflag⟩ := decodeCmd_eq_instr_iff.1 h
  exact (encode_of_commandOf hrow hflag).trans (cmdWord_fields hrsv)

theorem port_encode_of_decodeCtrl {v : Word} {i : Instr} (h : decodeCtrl v = .instr i) :
    i.port = .ctrl ∧ encode i = v := by
  obtain ⟨rsv, b, rfl⟩ : ∃ (rsv : BitVec 29) (b : BitVec 3), v = rsv ++ b :=
    ⟨v.extractLsb' 3 29, v.extractLsb' 0 3, by
      rw [BitVec.extractLsb'_append_extractLsb'_eq_extractLsb' (by omega)]
      exact BitVec.extractLsb'_eq_self.symm⟩
  by_cases hb : b ∈ [0b000#3, 0b001#3, 0b010#3, 0b100#3]
  · simp only [List.mem_cons, List.not_mem_nil, or_false] at hb
    obtain rfl | rfl | rfl | rfl := hb
    · rw [decodeCtrl_none] at h; cases h
    · rw [decodeCtrl_init] at h; cases h; exact ⟨rfl, rfl⟩
    · rw [decodeCtrl_run] at h; cases h; exact ⟨rfl, rfl⟩
    · rw [decodeCtrl_deinit] at h; cases h; exact ⟨rfl, rfl⟩
  · rw [decodeCtrl_several rsv hb] at h; cases h

/-- Settles O2, for each port: its decoder drops no bit. -/
theorem encodeOfDecodedWord : Obligations.EncodeOfDecodedWord := by
  intro p w i h
  cases p with
  | cmd => exact ⟨decodeCmd_port h, encode_of_decodeCmd h⟩
  | ctrl => exact port_encode_of_decodeCtrl h

/-! #### Legal and illegal command words -/

/-- Settles O3: R153's three tests, then the row of the opcode. -/
theorem cmdWordOpcodeMap : Obligations.CmdWordOpcodeMap := by
  intro c op flag imm illegal
  have hillegal : illegal ↔ ¬CmdWordLegal c := by
    rw [CmdWordLegal, FlagAllowed, not_and_or (b := _ ∧ _), not_and_or (a := _ = _),
      Classical.not_imp]
    rfl
  constructor
  · exact fun h => decodeCmd_rejects_iff.2 (hillegal.1 h)
  · exact fun h => decodeCmd_of_legal (not_not.1 (mt hillegal.2 h))

/-- No test of R153 reads IMM (R154). -/
theorem cmdWordLegal_congr_imm (c : Word) (imm : BitVec 16) :
    CmdWordLegal (imm ++ c.extractLsb' 0 16) ↔ CmdWordLegal c := by
  have hop : cmdOp (imm ++ c.extractLsb' 0 16) = cmdOp c := by
    rw [cmdOp, BitVec.extractLsb'_append_eq_of_add_le (by decide)]
    exact BitVec.extractLsb'_extractLsb'_of_le (by decide)
  have hflag : cmdFlag (imm ++ c.extractLsb' 0 16) = cmdFlag c := by
    rw [cmdFlag, BitVec.getLsbD_append]
    simp [cmdFlag]
  have hrsv : cmdRsv (imm ++ c.extractLsb' 0 16) = cmdRsv c := by
    rw [cmdRsv, BitVec.extractLsb'_append_eq_of_add_le (by decide)]
    exact BitVec.extractLsb'_extractLsb'_of_le (by decide)
  rw [CmdWordLegal, CmdWordLegal, hop, hflag, hrsv]

/-- A running, idle block answers an illegal word with Err(OP) (42_raster_fill R281). -/
theorem State.writeCmd_reject {s : State} {c : Word} {e : DecodeError} (hs : s.acceptsCommands)
    (h : decodeCmd c = .reject e) : s.writeCmd c = .next (s.raise .op) := by
  obtain ⟨hrunning, hidle⟩ := hs
  simp only [State.writeCmd, h]
  rw [if_neg (not_not.2 hrunning), if_neg (not_not.2 hidle)]

/-- Settles O4: R281's checks before OP have passed in a running, idle block; the rest is R153's
tests. -/
theorem illegalCmdWordRejected : Obligations.IllegalCmdWordRejected := by
  refine ⟨fun s c e hs h => ?_, fun c hop => ?_, fun c imm => ?_⟩
  · exact State.writeCmd_reject hs h
  · rw [decodeCmd_rejects_iff]
    rintro ⟨⟨hlow, hhigh⟩, -⟩
    rcases hop with hzero | habove
    · rw [cmdOp, hzero] at hlow
      exact absurd hlow (by decide)
    · exact absurd hhigh (by rw [cmdOp]; omega)
  · rw [decodeCmd_rejects_iff, decodeCmd_rejects_iff, cmdWordLegal_congr_imm]

/-- Settles O6: each word is run through its port's decoder. -/
theorem specWordsDecode : Obligations.SpecWordsDecode := by
  unfold Obligations.SpecWordsDecode
  decide

end Sys2Proof.Machine

/-! ### The pads and the levels they carry -/

namespace Sys2Proof.Machine

variable {s : State} {h : Half} {i : Fin 25}

/-! #### Routing -/

theorem State.driver_isSome_iff {p : Nat} :
    (s.driver p).isSome = true ↔ ∃ i : Fin 25, s.route[i].toNat = p := by
  simp [State.driver, List.find?_isSome]

theorem State.route_of_driver {p : Nat} (hi : s.driver p = some i) : s.route[i].toNat = p := by
  simpa using List.find?_some hi

theorem State.padOE_iff {p : Nat} :
    s.padOE p = true ↔ p < s.build.npads ∧ s.drv ≠ .uninit ∧ ∃ i : Fin 25, s.route[i].toNat = p := by
  rw [State.padOE, Bool.and_eq_true, Bool.and_eq_true, decide_eq_true_iff, decide_eq_true_iff,
    and_assoc, State.driver_isSome_iff]

/-- Some two signals share a pad (45_lifecycle R401). -/
theorem pinShared_iff {pins : Vector Byte 25} : pinShared pins = true ↔
    ∃ i j : Fin 25, i ≠ j ∧ pins[i] = pins[j] ∧ pins[i] ≠ unassigned := by
  simp [pinShared]

/-- With a complete assignment no pad carries two signals. -/
theorem pinsComplete.eq_of_pin_eq {npads : Nat} {pins : Vector Byte 25} {j : Fin 25}
    (hc : pinsComplete npads pins) (hi : pins[i] ≠ unassigned) (hij : pins[i] = pins[j]) :
    i = j := by
  obtain ⟨-, -, hshared⟩ := hc
  by_contra hne
  exact Bool.eq_false_iff.1 hshared (pinShared_iff.2 ⟨i, j, hne, hij, hi⟩)

/-- A signal routed by a complete routing is the driver of its pad. -/
theorem State.driver_route (hc : pinsComplete s.build.npads s.route)
    (hi : s.route[i] ≠ unassigned) : s.driver s.route[i].toNat = some i := by
  obtain ⟨j, hj⟩ := Option.isSome_iff_exists.1 (State.driver_isSome_iff.2 ⟨i, rfl⟩)
  have hroute : s.route[i] = s.route[j] := BitVec.eq_of_toNat_eq (State.route_of_driver hj).symm
  rw [hj, hc.eq_of_pin_eq hi hroute]

theorem State.padOE_route (hd : s.drv ≠ .uninit) (hc : pinsComplete s.build.npads s.route)
    (hi : s.route[i] ≠ unassigned) : s.padOE s.route[i].toNat = true := by
  obtain ⟨hlegal, -, -⟩ := hc
  exact State.padOE_iff.2 ⟨(hlegal i).resolve_left hi, hd, i, rfl⟩

theorem State.padOut_of_driver {p : Nat} (t : Nat) (hi : s.driver p = some i)
    (hp : s.padOE p = true) : s.padOut t h p = s.level h i := by
  simp only [State.padOut, hi, hp, if_true]

/-! #### Levels by signal -/

theorem State.level_gpio (hi : i.val < 5) : s.level h i = s.gpio.getLsbD i.val := if_pos hi

theorem State.level_pclk : s.level h 5 = s.pclkLevel h := rfl
theorem State.level_hs : s.level h 6 = s.panelOut.hs := rfl
theorem State.level_vs : s.level h 7 = s.panelOut.vs := rfl
theorem State.level_de : s.level h 8 = s.panelOut.de := rfl

theorem State.level_data (hi : 9 ≤ i.val) : s.level h i = s.panelOut.d.getLsbD (i.val - 9) := by
  rw [State.level, if_neg (by omega), if_neg (by omega), if_neg (by omega), if_neg (by omega),
    if_neg (by omega)]

theorem State.pclkLevel_first : s.pclkLevel .first = s.pclkpol :=
  if_neg fun ⟨_, hsecond⟩ => nomatch hsecond

theorem State.pclkLevel_second (hd : s.drv = .running) : s.pclkLevel .second = !s.pclkpol :=
  if_pos ⟨hd, rfl⟩

/-- The levels of HS, VS, DE and D are the parts of the tuple on the panel signals. -/
theorem State.levels_of_panelOut {o : PanelOut} (ho : s.panelOut = o) (h : Half) :
    s.level h 6 = o.hs ∧ s.level h 7 = o.vs ∧ s.level h 8 = o.de ∧
      ∀ i : Fin 25, 9 ≤ i.val → s.level h i = o.d.getLsbD (i.val - 9) := by
  subst ho
  exact ⟨State.level_hs, State.level_vs, State.level_de, fun _ => State.level_data⟩

/-- Before the first scan step after RUN the panel signals show the tuple of (0, 0) (R242). -/
theorem State.panelOut_start (hinv : s.Inv) (hd : s.drv = .running) (hp : s.panel = none) :
    s.panelOut = { hs := s.hspol, vs := s.vspol, de := !s.depol, d := 0 } := by
  obtain ⟨hh, hv⟩ := hinv.panelHeld hd hp
  rw [State.panelOut_first hd hp, State.periodOut_start hh hv hinv.hsync hinv.vsync]

/-- Settles O38: a complete routing makes each signal its pad's driver, and the timing signals show
the tuple held or, before the first scan step, that of (0, 0). -/
theorem padsFollowRouting : Obligations.PadsFollowRouting := by
  intro s
  refine ⟨fun p => State.padOE_iff, fun t h i hd hc hi => ?_, fun h i => State.level_gpio,
    fun hd => ⟨?_, ?_, fun o h hp => ?_, fun hinv hp h => ?_⟩⟩
  · exact State.padOut_of_driver t (State.driver_route hc hi) (State.padOE_route hd hc hi)
  · exact State.level_pclk.trans State.pclkLevel_first
  · exact State.level_pclk.trans (State.pclkLevel_second hd)
  · exact State.levels_of_panelOut (State.panelOut_held hd hp) h
  · obtain ⟨hhs, hvs, hde, hdata⟩ :=
      State.levels_of_panelOut (State.panelOut_start hinv hd hp) h
    exact ⟨hhs, hvs, hde, fun i hi => (hdata i hi).trans BitVec.getLsbD_zero⟩

end Sys2Proof.Machine

/-! ### The frame the scan shows (41_timing_generator) -/

namespace Sys2Proof.Machine

variable {s : State} {h v : Nat}

/-! #### The idle levels (R241) -/

theorem State.pclkLevel_stopped (hd : s.drv ≠ .running) (half : Half) :
    s.pclkLevel half = s.pclkpol :=
  if_neg fun ⟨hrun, _⟩ => hd hrun

/-- Settles O36: outside RUNNING the tuple on the panel signals is the idle one. -/
theorem idleLevels : Obligations.IdleLevels := by
  intro s half hd
  obtain ⟨hhs, hvs, hde, hdata⟩ := State.levels_of_panelOut (State.panelOut_stopped hd) half
  exact ⟨State.level_pclk.trans (State.pclkLevel_stopped hd half), hhs, hvs, hde,
    fun i hi => (hdata i hi).trans BitVec.getLsbD_zero⟩

/-! #### The tuple of a pixel period (R235) -/

theorem State.deActive_iff : s.deActive = true ↔
    (s.ha0 ≤ s.hcnt ∧ s.hcnt < s.ha0 + s.width) ∧
      (s.va0 ≤ s.vcnt ∧ s.vcnt < s.va0 + s.height) := decide_eq_true_iff

theorem State.deActive_false_iff : s.deActive = false ↔
    ¬((s.ha0 ≤ s.hcnt ∧ s.hcnt < s.ha0 + s.width) ∧
      (s.va0 ≤ s.vcnt ∧ s.vcnt < s.va0 + s.height)) := decide_eq_false_iff_not

theorem State.periodOut_hs (s : State) :
    s.periodOut.hs = if s.hcnt < s.hsw.toNat then s.hspol else !s.hspol := by
  simp only [State.periodOut, polLevel, State.hsActive, decide_eq_true_eq]

theorem State.periodOut_vs (s : State) :
    s.periodOut.vs = if s.vcnt < s.vsw.toNat then s.vspol else !s.vspol := by
  simp only [State.periodOut, polLevel, State.vsActive, decide_eq_true_eq]

/-- An active period shows the pixel at the distance of its position from the active area's start. -/
theorem State.periodOut_active (ha : s.deActive = true) :
    s.periodOut.de = s.depol ∧ s.periodOut.d = s.pix (s.hcnt - s.ha0) (s.vcnt - s.va0) := by
  obtain ⟨⟨hh, -⟩, hv, -⟩ := State.deActive_iff.1 ha
  rw [← Nat.cast_sub hh, ← Nat.cast_sub hv]
  exact ⟨by simp only [State.periodOut, ha, polLevel, if_true], if_pos ha⟩

theorem State.periodOut_inactive (ha : s.deActive = false) :
    s.periodOut.de = !s.depol ∧ s.periodOut.d = 0 := by
  simp [State.periodOut, polLevel, State.scanData, ha]

theorem State.nextPos_fst (s : State) :
    s.nextPos.1 = if s.hcnt + 1 = s.htotal then 0 else s.hcnt + 1 := by
  unfold State.nextPos
  split <;> rfl

theorem State.nextPos_snd (s : State) :
    s.nextPos.2 = if s.hcnt + 1 = s.htotal then (if s.vcnt + 1 = s.vtotal then 0 else s.vcnt + 1)
      else s.vcnt := by
  unfold State.nextPos
  split <;> rfl

/-- Settles O34, from the equation of a scan step and the parts of the tuple it emits. -/
theorem scanStepEmitsAndAdvances : Obligations.ScanStepEmitsAndAdvances := by
  intro s ha0 va0 htotal vtotal de
  refine ⟨State.scanTurn_stopped, fun hd => ⟨s.periodOut, ?_, fun hs => ?_, fun hs => ?_,
    fun hs => ?_, fun hs => ?_, fun ha => ?_, fun ha => ?_⟩⟩
  · rw [State.scanTurn_running hd, State.nextPos_fst, State.nextPos_snd]; rfl
  · exact s.periodOut_hs.trans (if_pos hs)
  · exact s.periodOut_hs.trans (if_neg hs)
  · exact s.periodOut_vs.trans (if_pos hs)
  · exact s.periodOut_vs.trans (if_neg hs)
  · exact State.periodOut_active (State.deActive_iff.2 ha)
  · exact State.periodOut_inactive (State.deActive_false_iff.2 ha)

/-! #### The positions of a run of the scan (R236) -/

/-- Counting on by one modulo `m` wraps at the end of the range. -/
theorem succ_mod_eq_ite {m : Nat} (hm : 0 < m) (n : Nat) :
    (n + 1) % m = if n % m + 1 = m then 0 else n % m + 1 := by
  rw [← Nat.mod_add_mod]
  by_cases hlast : n % m + 1 = m
  · rw [if_pos hlast, hlast, Nat.mod_self]
  · have := Nat.mod_lt n hm
    rw [if_neg hlast, Nat.mod_eq_of_lt (by omega)]

theorem succ_div_eq_ite {m : Nat} (hm : 0 < m) (n : Nat) :
    (n + 1) / m = if n % m + 1 = m then n / m + 1 else n / m := by
  have hmod := succ_mod_eq_ite hm n
  by_cases hlast : n % m + 1 = m
  · rw [if_pos hlast] at hmod ⊢
    exact Nat.succ_div_of_mod_eq_zero hmod
  · rw [if_neg hlast] at hmod ⊢
    exact Nat.succ_div_of_mod_ne_zero (by omega)

/-- The state with the scan at (h, v). -/
def State.atPos (s : State) (h v : Nat) : State := { s with hcnt := h, vcnt := v }

/-- The state with the scan at the position it has `k` steps after (0, 0). -/
def State.atPeriod (s : State) (k : Nat) : State :=
  s.atPos (k % s.htotal) (k / s.htotal % s.vtotal)

theorem State.atPeriod_rowMajor (hh : h < s.htotal) (hv : v < s.vtotal) :
    s.atPeriod (v * s.htotal + h) = s.atPos h v := by
  rw [State.atPeriod, Nat.mul_add_mod_of_lt hh, Nat.mul_comm v,
    Nat.mul_add_div (Nat.zero_lt_of_lt hh), Nat.div_eq_of_lt hh, Nat.add_zero, Nat.mod_eq_of_lt hv]

theorem State.atPeriod_zero (hh : s.hcnt = 0) (hv : s.vcnt = 0) : s.atPeriod 0 = s := by
  have hself : s.atPos s.hcnt s.vcnt = s := rfl
  rw [hh, hv] at hself
  rwa [State.atPeriod, Nat.zero_mod, Nat.zero_div, Nat.zero_mod]

theorem State.atPeriod_frame_end (hpos : 0 < s.htotal) :
    s.atPeriod (s.htotal * s.vtotal) = s.atPeriod 0 := by
  rw [State.atPeriod, Nat.mul_mod_right, Nat.mul_div_cancel_left _ hpos, Nat.mod_self,
    State.atPeriod, Nat.zero_mod, Nat.zero_div, Nat.zero_mod]

/-- The scan advances from each period's position to the next one's. -/
theorem State.atPos_nextPos_atPeriod (hh : 0 < s.htotal) (hv : 0 < s.vtotal) (k : Nat) :
    s.atPos (s.atPeriod k).nextPos.1 (s.atPeriod k).nextPos.2 = s.atPeriod (k + 1) := by
  change _ = s.atPos ((k + 1) % s.htotal) ((k + 1) / s.htotal % s.vtotal)
  rw [State.nextPos_fst, State.nextPos_snd, succ_mod_eq_ite hh, succ_div_eq_ite hh,
    apply_ite (· % s.vtotal), succ_mod_eq_ite hv]
  rfl

/-! #### What a run of the scan emits -/

/-- The tuples of the first `n` periods from (0, 0), oldest first. -/
def State.periods (s : State) (n : Nat) : List PanelOut :=
  (List.range n).map fun k => (s.atPeriod k).periodOut

theorem State.periods_succ (s : State) (n : Nat) :
    s.periods (n + 1) = s.periods n ++ [(s.atPeriod n).periodOut] := by
  simp [State.periods, List.range_succ]

@[simp] theorem State.length_periods (s : State) (n : Nat) : (s.periods n).length = n := by
  simp [State.periods]

/-- The period at a position of the frame is that position's tuple. -/
theorem State.periods_rowMajor (hh : h < s.htotal) (hv : v < s.vtotal) :
    (s.periods (s.htotal * s.vtotal))[v * s.htotal + h]? =
      some (s.atPos h v).periodOut := by
  have hlt : v * s.htotal + h < s.htotal * s.vtotal := by
    rw [Nat.mul_comm v, Nat.mul_comm _ s.vtotal]
    exact Nat.mul_add_lt_mul_of_lt_of_lt hv hh
  simp only [State.periods, List.getElem?_map, List.getElem?_range hlt, Option.map_some,
    State.atPeriod_rowMajor hh hv]

theorem State.scanRun_succ (s : State) (n : Nat) :
    s.scanRun (n + 1) = (s.scanRun n).scanTurn := by
  induction n generalizing s with
  | zero => rfl
  | succ n ih => exact ih s.scanTurn

/-- The state with the tuples `out` emitted, newest first, and `held` on the panel signals. -/
def State.showing (s : State) (out : List PanelOut) (held : Option PanelOut) : State :=
  { s with emitted := out, panel := held }

/-- A turn of the scan `k` periods after (0, 0), whatever it has emitted so far. -/
theorem State.scanTurn_atPeriod (hd : s.drv = .running) (hh : 0 < s.htotal) (hv : 0 < s.vtotal)
    (k : Nat) (out : List PanelOut) (held : Option PanelOut) :
    ((s.atPeriod k).showing out held).scanTurn =
      (s.atPeriod (k + 1)).showing ((s.atPeriod k).periodOut :: out)
        (some (s.atPeriod k).periodOut) := by
  calc ((s.atPeriod k).showing out held).scanTurn
      = (s.atPos (s.atPeriod k).nextPos.1 (s.atPeriod k).nextPos.2).showing
          ((s.atPeriod k).periodOut :: out) (some (s.atPeriod k).periodOut) :=
        State.scanTurn_running hd
    _ = _ := by rw [State.atPos_nextPos_atPeriod hh hv]

/-- A run of the scan from (0, 0): the position, and the tuples emitted and held. -/
theorem State.scanRun_eq (hd : s.drv = .running) (hh : 0 < s.htotal) (hv : 0 < s.vtotal)
    (hstart : s.atPeriod 0 = s) (n : Nat) :
    s.scanRun n = (s.atPeriod n).showing ((s.periods n).reverse ++ s.emitted)
      ((s.periods n).getLast?.or s.panel) := by
  induction n with
  | zero => rw [hstart]; rfl
  | succ n ih =>
    rw [State.scanRun_succ, ih, State.scanTurn_atPeriod hd hh hv, s.periods_succ n,
      List.reverse_concat, List.getLast?_concat]
    rfl

/-! #### Turns of the scan are steps of the machine -/

theorem State.scanTurn_turns (s : State) (q : List Agent) :
    { s with turns := q }.scanTurn = { s.scanTurn with turns := q } := by
  by_cases hd : s.drv = .running
  · rw [State.scanTurn_running hd, State.scanTurn_running (by exact hd)]
    rfl
  · rw [State.scanTurn_stopped hd, State.scanTurn_stopped (by exact hd)]

theorem State.scanRun_turns (s : State) (q : List Agent) (n : Nat) :
    { s with turns := q }.scanRun n = { s.scanRun n with turns := q } := by
  induction n with
  | zero => rfl
  | succ n ih => rw [State.scanRun_succ, ih, State.scanTurn_turns, State.scanRun_succ]

theorem State.stepRun_scan (n : Nat) (rest : List Agent)
    (ht : s.turns = List.replicate n .scan ++ rest) :
    s.stepRun n = .next { s.scanRun n with turns := rest } := by
  induction n generalizing s with
  | zero =>
    obtain rfl : s.turns = rest := ht
    rfl
  | succ n ih =>
    have hstep : step s = _ := step_scan (State.nextAgent_cons ht)
    rw [State.turnTaken_cons ht, State.scanTurn_turns] at hstep
    simp only [State.stepRun, hstep]
    rw [ih rfl, State.scanRun_turns]
    rfl

theorem State.htotal_pos (h : s.hsw ≠ 0) : 0 < s.htotal := by
  have : s.hsw.toNat ≠ 0 := fun h0 => h (BitVec.eq_of_toNat_eq h0)
  unfold State.htotal
  omega

theorem State.vtotal_pos (h : s.vsw ≠ 0) : 0 < s.vtotal := by
  have : s.vsw.toNat ≠ 0 := fun h0 => h (BitVec.eq_of_toNat_eq h0)
  unfold State.vtotal
  omega

/-- Settles O35: from (0, 0) the scan takes the frame's periods in row-major order, and what each
shows is the tuple of its position. -/
theorem frameShowsEveryPixelOnce : Obligations.FrameShowsEveryPixelOnce := by
  refine ⟨fun s n rest => State.stepRun_scan n rest, fun s hd hh hv hhsw hvsw => ?_⟩
  have hhpos := State.htotal_pos hhsw
  have hvpos := State.vtotal_pos hvsw
  have hstart := State.atPeriod_zero hh hv
  have hne : s.periods (s.htotal * s.vtotal) ≠ [] :=
    List.ne_nil_of_length_pos (by rw [State.length_periods]; exact Nat.mul_pos hhpos hvpos)
  refine ⟨s.periods (s.htotal * s.vtotal), ?_, s.length_periods _, fun x y hx hy => ?_,
    fun h v o hlth hltv hout ho => ?_⟩
  · rw [State.scanRun_eq hd hhpos hvpos hstart, State.atPeriod_frame_end hhpos, hstart,
      List.getLast?_eq_some_getLast hne]
    rfl
  · have hlth : s.ha0 + x < s.htotal := by simp only [State.ha0, State.htotal]; omega
    have hltv : s.va0 + y < s.vtotal := by simp only [State.va0, State.vtotal]; omega
    obtain ⟨hde, hpix⟩ := State.periodOut_active
      (s := s.atPos (s.ha0 + x) (s.va0 + y)) (State.deActive_iff.2
        ⟨⟨Nat.le_add_right _ _, Nat.add_lt_add_left hx _⟩,
          Nat.le_add_right _ _, Nat.add_lt_add_left hy _⟩)
    refine ⟨_, State.periods_rowMajor hlth hltv, hde, hpix.trans ?_⟩
    change s.pix ((s.ha0 + x : Nat) - s.ha0) ((s.va0 + y : Nat) - s.va0) = s.pix x y
    rw [Nat.cast_add, Nat.cast_add, add_sub_cancel_left, add_sub_cancel_left]
  · cases (State.periods_rowMajor hlth hltv).symm.trans ho
    exact State.periodOut_inactive (State.deActive_false_iff.2 hout)

end Sys2Proof.Machine

/-! ### A write to CMD: its checks in order, then acceptance (42_raster_fill R281, R283) -/

namespace Sys2Proof.Machine

variable {s : State} {c : Word} {i : Instr}

theorem State.issue_stopped {bad : Bool} (h : s.drv ≠ .running) :
    s.issue i bad = .next (s.raise .state) := if_pos h

theorem State.issue_busy {bad : Bool} (hr : s.drv = .running) (h : s.eng ≠ .idle) :
    s.issue i bad = .next (s.raise .busy) := by
  rw [State.issue, if_neg (not_not.2 hr), if_pos h]

theorem State.issue_badArgs (hs : s.acceptsCommands) :
    s.issue i true = .next (s.raise .arg) := by
  rw [State.issue, if_neg (not_not.2 hs.1), if_neg (not_not.2 hs.2), if_pos rfl]

/-- A raster command with valid arguments is accepted where commands are. -/
theorem exec_accepts (hs : s.acceptsCommands) (hp : i.port = .cmd)
    (hargs : (s.jobOf i).argsInvalid s.build.scrBytes = false) :
    exec i s = .next (s.accept i) := by
  rw [exec_raster i s hp, State.issue_accepts i hs.1 hs.2 hargs]

theorem State.write_cmd (s : State) (c : Word) : s.write 0x040 .b4 c = s.writeCmd c :=
  (s.write_offset .cmd c).trans (State.writeReg_unlocked c rfl rfl)

theorem State.writeCmd_instr (s : State) (h : decodeCmd c = .instr i) :
    s.writeCmd c = exec i s := by
  simp only [State.writeCmd, h]

theorem State.writeCmd_issue (s : State) (h : decodeCmd c = .instr i) :
    s.writeCmd c = s.issue i ((s.jobOf i).argsInvalid s.build.scrBytes) := by
  rw [s.writeCmd_instr h, exec_raster i s (decodeCmd_port h)]

theorem State.writeCmd_stopped (h : s.drv ≠ .running) :
    s.writeCmd c = .next (s.raise .state) := by
  cases hc : decodeCmd c with
  | instr i => rw [s.writeCmd_issue hc, State.issue_stopped h]
  | reject e => simp only [State.writeCmd, hc, if_pos h]

theorem State.writeCmd_busy (hr : s.drv = .running) (h : s.eng ≠ .idle) :
    s.writeCmd c = .next (s.raise .busy) := by
  cases hc : decodeCmd c with
  | instr i => rw [s.writeCmd_issue hc, State.issue_busy hr h]
  | reject e => simp only [State.writeCmd, hc, if_neg (not_not.2 hr), if_pos h]

/-- Settles O9: STATE and BUSY whatever the word, OP for an illegal word, ARG for a legal one. -/
theorem cmdWriteCheckOrder : Obligations.CmdWriteCheckOrder := by
  refine fun s c => ⟨s.write_cmd c, fun i => s.writeCmd_instr, State.writeCmd_stopped,
    State.writeCmd_busy, fun hs e => State.writeCmd_reject hs,
    fun hs i hc => ⟨fun hbad => ?_, fun hgood => ?_⟩⟩
  · rw [s.writeCmd_issue hc, hbad, State.issue_badArgs hs]
  · rw [s.writeCmd_issue hc, State.issue_accepts i hs.1 hs.2 hgood]

/-! #### What no turn of the engine reads -/

/-- The state with other operand registers, another KEY and other turns to come. -/
def State.withUnread (s : State) (a0 a1 a2 a3 : Word) (key : Pixel) (q : List Agent) : State :=
  { s with arg0 := a0, arg1 := a1, arg2 := a2, arg3 := a3, key := key, turns := q }

section
variable (s : State) (a0 a1 a2 a3 : Word) (key : Pixel) (q : List Agent)

theorem State.perform_withUnread (j : Job) (op : Op) :
    (s.withUnread a0 a1 a2 a3 key q).perform j op =
      (s.perform j op).withUnread a0 a1 a2 a3 key q := by
  cases op with
  | setPix x y v => rfl
  | getPix x y => rfl
  | copyS src x y skip =>
    have hread : (s.withUnread a0 a1 a2 a3 key q).sPix src = s.sPix src := rfl
    simp only [State.perform, hread]
    split
    · rfl
    · split <;> rfl
  | rotS src dst =>
    simp only [State.perform]
    split <;> rfl

theorem State.finish_withUnread (j : Job) :
    (s.withUnread a0 a1 a2 a3 key q).finish j =
      (s.finish j).withUnread a0 a1 a2 a3 key q := by
  unfold State.finish
  split <;> rfl

theorem State.clearTurn_withUnread (n : Nat) :
    (s.withUnread a0 a1 a2 a3 key q).clearTurn n =
      (s.clearTurn n).withUnread a0 a1 a2 a3 key q := by
  unfold State.clearTurn
  rw [apply_ite (State.withUnread · a0 a1 a2 a3 key q)]
  rfl

theorem State.execTurn_withUnread (j : Job) :
    (s.withUnread a0 a1 a2 a3 key q).execTurn j =
      (s.execTurn j).withUnread a0 a1 a2 a3 key q := by
  have hw : (s.withUnread a0 a1 a2 a3 key q).width = s.width := rfl
  have hh : (s.withUnread a0 a1 a2 a3 key q).height = s.height := rfl
  simp only [State.execTurn, hw, hh]
  split
  · exact s.perform_withUnread a0 a1 a2 a3 key q j _
  · exact s.finish_withUnread a0 a1 a2 a3 key q j

/-- The engine computes from its copies alone. -/
theorem State.engineTurn_withUnread :
    (s.withUnread a0 a1 a2 a3 key q).engineTurn =
      s.engineTurn.withUnread a0 a1 a2 a3 key q := by
  have he : (s.withUnread a0 a1 a2 a3 key q).eng = s.eng := rfl
  simp only [State.engineTurn, he]
  split
  · rfl
  · exact s.clearTurn_withUnread a0 a1 a2 a3 key q _
  · exact s.execTurn_withUnread a0 a1 a2 a3 key q _

end

theorem State.engineTurn_turns (s : State) : s.engineTurn.turns = s.turns := by
  rw [s.engineTurn_cases.frame]

/-- Settles O10: the job accepted holds the copies, and a turn reads no operand register. -/
theorem acceptedCommandUsesItsCopies : Obligations.AcceptedCommandUsesItsCopies := by
  refine ⟨fun s c i hs hc hargs => ?_, fun s a0 a1 a2 a3 key => ?_⟩
  · refine ⟨s.accept i, s.jobOf i, ?_, rfl, encode_of_decodeCmd hc, rfl,
      State.status_busy _⟩
    rw [s.writeCmd_instr hc, exec_accepts hs (decodeCmd_port hc) hargs]
  · refine (s.engineTurn_withUnread a0 a1 a2 a3 key s.turns).trans ?_
    rw [State.withUnread, ← s.engineTurn_turns]

end Sys2Proof.Machine

/-! ### One turn of the engine is one event, and the engine completes (42_raster_fill R284, R285) -/

namespace Sys2Proof.Machine

variable {s : State} {j : Job}

/-! #### The turn by what the engine is at -/

theorem State.engineTurn_clear {n : Nat} (h : s.eng = .clearing n)
    (hn : n < s.width * s.height) :
    s.engineTurn = { s.setPix ((n % s.width : Nat) : Int) ((n / s.width : Nat) : Int) 0 with
      eng := .clearing (n + 1) } := by
  simp only [State.engineTurn, h, State.clearTurn, if_pos hn]

theorem State.engineTurn_cleared {n : Nat} (h : s.eng = .clearing n)
    (hn : ¬n < s.width * s.height) : s.engineTurn = { s with eng := .idle } := by
  simp only [State.engineTurn, h, State.clearTurn, if_neg hn]

theorem State.engineTurn_perform {op : Op} (h : s.eng = .exec j)
    (hop : (j.ops s.width s.height)[j.k]? = some op) : s.engineTurn = s.perform j op := by
  simp only [State.engineTurn, h, State.execTurn, hop]

theorem State.engineTurn_finish (h : s.eng = .exec j)
    (hend : (j.ops s.width s.height)[j.k]? = none) : s.engineTurn = s.finish j := by
  simp only [State.engineTurn, h, State.execTurn, hend]

/-! #### Turns of the engine are steps of the machine -/

theorem State.engineTurn_setTurns (s : State) (q : List Agent) :
    { s with turns := q }.engineTurn = { s.engineTurn with turns := q } := by
  have h := s.engineTurn_withUnread s.arg0 s.arg1 s.arg2 s.arg3 s.key q
  rw [s.engineTurn_cases.frame] at h ⊢
  exact h

theorem State.engineRun_setTurns (s : State) (q : List Agent) (n : Nat) :
    { s with turns := q }.engineRun n = { s.engineRun n with turns := q } := by
  induction n generalizing s with
  | zero => rfl
  | succ n ih => rw [State.engineRun, State.engineTurn_setTurns, ih]; rfl

theorem State.stepRun_engine (n : Nat) (rest : List Agent)
    (ht : s.turns = List.replicate n .engine ++ rest) :
    s.stepRun n = .next { s.engineRun n with turns := rest } := by
  induction n generalizing s with
  | zero =>
    obtain rfl : s.turns = rest := ht
    rfl
  | succ n ih =>
    have hstep : step s = _ := step_engine (State.nextAgent_cons ht)
    rw [State.turnTaken_cons ht, State.engineTurn_setTurns] at hstep
    simp only [State.stepRun, hstep]
    rw [ih rfl, State.engineRun_setTurns]
    rfl

/-! #### The turns the engine still needs -/

/-- A bound on the turns to Idle: one for each pixel left to clear, two for each operation left, one
fewer where the current one has read already; and one turn to end. -/
def State.turnsLeft (s : State) : Nat :=
  match s.eng with
  | .idle => 0
  | .clearing n => s.width * s.height - n + 1
  | .exec j =>
    2 * ((j.ops s.width s.height).length - j.k) +
      if j.held.isSome = true ∧ j.k < (j.ops s.width s.height).length then 0 else 1

theorem State.turnsLeft_idle (h : s.eng = .idle) : s.turnsLeft = 0 := by
  simp only [State.turnsLeft, h]

theorem State.turnsLeft_clearing {n : Nat} (h : s.eng = .clearing n) :
    s.turnsLeft = s.width * s.height - n + 1 := by
  simp only [State.turnsLeft, h]

theorem State.turnsLeft_exec (h : s.eng = .exec j) :
    s.turnsLeft = 2 * ((j.ops s.width s.height).length - j.k) +
      if j.held.isSome = true ∧ j.k < (j.ops s.width s.height).length then 0 else 1 := by
  simp only [State.turnsLeft, h]

theorem State.turnsLeft_exec_le (h : s.eng = .exec j) :
    s.turnsLeft ≤ 2 * ((j.ops s.width s.height).length - j.k) + 1 := by
  rw [State.turnsLeft_exec h]
  split <;> omega

theorem State.turnsLeft_exec_pos (h : s.eng = .exec j) : 0 < s.turnsLeft := by
  rw [State.turnsLeft_exec h]
  split <;> omega

/-- An event ends its operation, or is the read of one that still has to write. -/
theorem State.perform_eng (s : State) (j : Job) (op : Op) :
    ∃ j', (s.perform j op).eng = .exec j' ∧ (∀ W H, j'.ops W H = j.ops W H) ∧
      (j'.k = j.k + 1 ∨ j'.k = j.k ∧ j.held = none ∧ j'.held.isSome = true) := by
  cases op with
  | setPix x y v => exact ⟨_, rfl, fun _ _ => rfl, .inl rfl⟩
  | getPix x y => exact ⟨_, rfl, fun _ _ => rfl, .inl rfl⟩
  | copyS src x y skip =>
    simp only [State.perform]
    split
    · exact ⟨_, rfl, fun _ _ => rfl, .inl rfl⟩
    · split
      · exact ⟨_, rfl, fun _ _ => rfl, .inl rfl⟩
      · exact ⟨_, rfl, fun _ _ => rfl, .inr ⟨rfl, ‹_›, rfl⟩⟩
  | rotS src dst =>
    simp only [State.perform]
    split
    · exact ⟨_, rfl, fun _ _ => rfl, .inl rfl⟩
    · exact ⟨_, rfl, fun _ _ => rfl, .inr ⟨rfl, ‹_›, rfl⟩⟩

theorem State.turnsLeft_perform_lt {op : Op} (h : s.eng = .exec j)
    (hop : (j.ops s.width s.height)[j.k]? = some op) :
    (s.perform j op).turnsLeft < s.turnsLeft := by
  obtain ⟨hk, -⟩ := List.getElem?_eq_some_iff.1 hop
  obtain ⟨j', heng, hops, hprogress⟩ := s.perform_eng j op
  have hops' : j'.ops (s.perform j op).width (s.perform j op).height =
      j.ops s.width s.height := by
    rw [hops, s.perform_frame j op]; rfl
  rw [State.turnsLeft_exec h, State.turnsLeft_exec heng, hops']
  rcases hprogress with hnext | ⟨hsame, hnone, hsome⟩
  · rw [hnext]
    split <;> split <;> omega
  · rw [hsame, hnone, if_pos ⟨hsome, hk⟩, if_neg (by simp)]
    omega

theorem EngineEffect.turnsLeft_lt {t : State} (h : EngineEffect s t) (hs : s.eng ≠ .idle) :
    t.turnsLeft < s.turnsLeft := by
  cases h with
  | idle hidle => exact absurd hidle hs
  | clear n hn hlt =>
    rw [State.turnsLeft_clearing hn, State.turnsLeft_clearing rfl]
    change s.width * s.height - (n + 1) + 1 < _
    omega
  | cleared n hn =>
    rw [State.turnsLeft_idle rfl, State.turnsLeft_clearing hn]
    omega
  | perform j op hj hop => exact State.turnsLeft_perform_lt hj hop
  | finish j hj =>
    rw [State.turnsLeft_idle (by rw [State.finish_frame])]
    exact State.turnsLeft_exec_pos hj

theorem State.engineRun_completes (s : State) {bound : Nat} (h : s.turnsLeft ≤ bound) :
    ∃ m ≤ bound, (s.engineRun m).eng = .idle := by
  induction bound generalizing s with
  | zero =>
    by_cases hidle : s.eng = .idle
    · exact ⟨0, le_rfl, hidle⟩
    · exact absurd (s.engineTurn_cases.turnsLeft_lt hidle) (by omega)
  | succ b ih =>
    by_cases hidle : s.eng = .idle
    · exact ⟨0, Nat.zero_le _, hidle⟩
    · have hlt := s.engineTurn_cases.turnsLeft_lt hidle
      obtain ⟨m, hm, hend⟩ := ih s.engineTurn (by omega)
      exact ⟨m + 1, Nat.succ_le_succ hm, hend⟩

/-- Settles O31: the equation of the turn in each case, and a bound each turn lowers. -/
theorem engineCompletes : Obligations.EngineCompletes := by
  refine fun s => ⟨State.stepRun_engine, fun n hn =>
    ⟨State.engineTurn_clear hn, State.engineTurn_cleared hn,
      s.engineRun_completes (State.turnsLeft_clearing hn).le⟩,
    fun j hj => ⟨fun op hop => ?_, fun hend => ?_,
      s.engineRun_completes (State.turnsLeft_exec_le hj)⟩⟩
  · rw [State.engineTurn_perform hj hop]
    cases op with
    | setPix x y v => rfl
    | getPix x y => rfl
    | copyS src x y skip => cases hheld : j.held <;> simp only [State.perform, hheld] <;> rfl
    | rotS src dst => cases hheld : j.held <;> simp only [State.perform, hheld] <;> rfl
  · rw [State.engineTurn_finish hj hend]
    cases hcmd : j.cmd with
    | pixelGet imm =>
      cases hheld : j.held <;> simp only [State.finish, hcmd, hheld] <;> rfl
    | rotate angle => simp only [State.finish, hcmd]
    | _ => simp only [State.finish, hcmd]

end Sys2Proof.Machine

/-! ### The area commands and the order of every command's operations (42_raster_fill) -/

namespace Sys2Proof.Machine

/-! #### Row-major lists of points (R288) -/

/-- Row-major order: an earlier row, or the same row further left. -/
def rowMajor {α : Type} [LT α] (p q : α × α) : Prop := p.2 < q.2 ∨ (p.2 = q.2 ∧ p.1 < q.1)

/-- Rows one after the other, each from left to right, are in row-major order. -/
theorem pairwise_rowMajor {α : Type} [LT α] {rows : List α} {row : α → List α}
    (hrows : rows.Pairwise (· < ·)) (hrow : ∀ y, (row y).Pairwise (· < ·)) :
    (rows.flatMap fun y => (row y).map fun x => (x, y)).Pairwise rowMajor := by
  refine List.pairwise_flatMap.2 ⟨fun y _ => ?_, hrows.imp fun {y y'} hlt p hp q hq => ?_⟩
  · exact List.pairwise_map.2 ((hrow y).imp fun hlt => .inr ⟨rfl, hlt⟩)
  · obtain ⟨x, -, rfl⟩ := List.mem_map.1 hp
    obtain ⟨x', -, rfl⟩ := List.mem_map.1 hq
    exact .inl hlt

theorem nodup_of_rowMajor {α : Type} [Preorder α] {ps : List (α × α)}
    (h : ps.Pairwise rowMajor) : ps.Nodup :=
  h.imp fun {p q} hpq heq => by
    obtain hrow | ⟨-, hcol⟩ := hpq
    · exact hrow.ne (congrArg Prod.snd heq)
    · exact hcol.ne (congrArg Prod.fst heq)

theorem intRange_pairwise_lt (lo hi : Int) : (intRange lo hi).Pairwise (· < ·) :=
  List.pairwise_map.2 (List.pairwise_lt_range.imp fun h => by omega)

theorem rectPixels_rowMajor (x y w h : Int) (W H : Nat) :
    (rectPixels x y w h W H).Pairwise rowMajor := by
  unfold rectPixels
  split
  · exact List.Pairwise.nil
  · exact pairwise_rowMajor (intRange_pairwise_lt _ _) fun _ => intRange_pairwise_lt _ _

theorem rectPixels_nil {x y w h : Int} {W H : Nat} (hsize : w ≤ 0 ∨ h ≤ 0) :
    rectPixels x y w h W H = [] := if_pos hsize

/-- Distinct pixels inside the buffer are at most `W*H`. -/
theorem length_le_of_inb {ps : List (Int × Int)} {W H : Nat} (hnodup : ps.Nodup)
    (hin : ∀ p ∈ ps, inb W H p.1 p.2) : ps.length ≤ W * H := by
  have hsub : ps ⊆ rectPixels 0 0 W H W H := fun p hp => by
    have hp := hin p hp
    exact mem_rectPixels.2 ⟨hp, by omega⟩
  exact (hnodup.subperm hsub).length_le.trans (length_rectPixels_le 0 0 W H W H)

/-! #### The pixels of the area commands -/

/-- The colour an area command paints in; the other commands are none. -/
def areaColor : Instr → Option Pixel
  | .fill color | .fillRect color | .rect _ color | .hline color | .vline color => some color
  | _ => none

theorem areaColor_eq_some_iff {i : Instr} {color : Pixel} :
    areaColor i = some color ↔
      i = .fill color ∨ i = .fillRect color ∨ (∃ f, i = .rect f color) ∨ i = .hline color ∨
        i = .vline color := by
  cases i <;> simp [areaColor]

/-- The pixels of an area command inside the buffer, in order; FILL's are those of the whole buffer. -/
def Job.areaPixels (j : Job) (W H : Nat) : List (Int × Int) :=
  match j.cmd with
  | .fill _ => rectPixels 0 0 W H W H
  | .fillRect _ => rectPixels j.x j.y j.w j.h W H
  | .rect filled _ =>
    (rectPixels j.x j.y j.w j.h W H).filter fun p =>
      filled = true ∨ onEdge j.x j.y j.w j.h p
  | .hline _ => rectPixels j.x j.y j.len 1 W H
  | .vline _ => rectPixels j.x j.y 1 j.len W H
  | _ => []

/-- The pixels of an area command are those of a rectangle, or some of them. -/
theorem Job.areaPixels_sublist (j : Job) (W H : Nat) :
    ∃ x y w h, List.Sublist (j.areaPixels W H) (rectPixels x y w h W H) := by
  unfold Job.areaPixels
  split
  · exact ⟨_, _, _, _, .refl _⟩
  · exact ⟨_, _, _, _, .refl _⟩
  · exact ⟨_, _, _, _, List.filter_sublist⟩
  · exact ⟨_, _, _, _, .refl _⟩
  · exact ⟨_, _, _, _, .refl _⟩
  · exact ⟨0, 0, 0, 0, List.nil_sublist _⟩

theorem Job.areaPixels_rowMajor (j : Job) (W H : Nat) :
    (j.areaPixels W H).Pairwise rowMajor := by
  obtain ⟨x, y, w, h, hsub⟩ := j.areaPixels_sublist W H
  exact (rectPixels_rowMajor x y w h W H).sublist hsub

theorem Job.length_areaPixels_le (j : Job) (W H : Nat) :
    (j.areaPixels W H).length ≤ W * H := by
  obtain ⟨x, y, w, h, hsub⟩ := j.areaPixels_sublist W H
  exact hsub.length_le.trans (length_rectPixels_le x y w h W H)

theorem opsFill_eq (color : Pixel) (W H : Nat) :
    opsFill color W H = paintOps color (rectPixels 0 0 W H W H) := by
  unfold rectPixels
  split
  · have hempty : W = 0 ∨ H = 0 := by omega
    obtain rfl | rfl := hempty <;> simp [opsFill, paintOps, intRange]
  · simp only [opsFill, paintOps, List.map_flatMap, List.map_map, Function.comp_def, max_self,
      zero_add, min_self]

/-- An area command writes its pixels, one operation a pixel. -/
theorem Job.ops_area {j : Job} {color : Pixel} (h : areaColor j.cmd = some color) (W H : Nat) :
    j.ops W H = paintOps color (j.areaPixels W H) := by
  obtain hcmd | hcmd | ⟨filled, hcmd⟩ | hcmd | hcmd := areaColor_eq_some_iff.1 h
  all_goals simp only [Job.ops, Job.areaPixels, hcmd]
  · exact opsFill_eq color W H
  · rfl
  · cases filled <;> simp [opsRect]
  · rfl
  · rfl

/-! #### An area command from its issue to its end -/

section
variable {s : State} {i : Instr} {color : Pixel}

theorem port_of_areaColor (h : areaColor i = some color) : i.port = .cmd := by
  obtain rfl | rfl | ⟨f, rfl⟩ | rfl | rfl := areaColor_eq_some_iff.1 h <;> rfl

/-- An area command has no argument check. -/
theorem argsInvalid_of_areaColor {j : Job} (h : areaColor j.cmd = some color) (scrBytes : Nat) :
    j.argsInvalid scrBytes = false := by
  unfold Job.argsInvalid
  obtain hcmd | hcmd | ⟨f, hcmd⟩ | hcmd | hcmd := areaColor_eq_some_iff.1 h <;> rw [hcmd]

/-- An area command has no result register. -/
theorem finish_of_areaColor {j : Job} (h : areaColor j.cmd = some color) (s : State) :
    s.finish j = { s with eng := .idle } := by
  unfold State.finish
  obtain hcmd | hcmd | ⟨f, hcmd⟩ | hcmd | hcmd := areaColor_eq_some_iff.1 h <;> rw [hcmd]

theorem exec_area (hs : s.acceptsCommands) (h : areaColor i = some color) :
    exec i s = .next (s.accept i) :=
  exec_accepts hs (port_of_areaColor h) (argsInvalid_of_areaColor h _)

/-- An area command completes within a turn a pixel of the buffer and one to end; `hP` says which
pixels it paints. -/
theorem State.completes_area {P : Int → Int → Prop} (hs : s.acceptsCommands)
    (h : areaColor i = some color)
    (hP : ∀ p, p ∈ (s.jobOf i).areaPixels s.width s.height ↔
      inb s.width s.height p.1 p.2 ∧ P p.1 p.2) :
    s.CompletesPainting i (s.width * s.height + 1) color P :=
  State.completes_painting hs (port_of_areaColor h) (argsInvalid_of_areaColor h _)
    (fun u _ hj => finish_of_areaColor (hj ▸ h) u) _ (Job.ops_area h _ _) hP
    (Nat.succ_le_succ (Job.length_areaPixels_le _ _ _))

/-- Settles O11: FILL's rectangle is the whole buffer. -/
theorem fillPaintsEveryPixel : Obligations.FillPaintsEveryPixel := by
  refine fun s color hs => State.completes_area hs rfl fun p => mem_rectPixels.trans ?_
  exact ⟨fun ⟨hin, _⟩ => ⟨hin, trivial⟩, fun ⟨hin, _⟩ => ⟨hin, by omega⟩⟩

/-- Settles O12: the clipped rectangle's pixels are those of FILL_RECT. -/
theorem fillRectPaintsIntersection : Obligations.FillRectPaintsIntersection := by
  rintro s color x y w h hs rfl rfl rfl rfl
  exact State.completes_area hs rfl fun p => mem_rectPixels

/-- Settles O13: RECT keeps the pixels on the edge, or with F = 1 all. -/
theorem rectPaintsWholeOrOutline : Obligations.RectPaintsWholeOrOutline := by
  rintro s filled color x y w h hs rfl rfl rfl rfl
  refine State.completes_area hs rfl fun p => List.mem_filter.trans ?_
  rw [mem_rectPixels, decide_eq_true_iff, and_assoc]
  rfl

/-- Settles O14: a rectangle of height 1. -/
theorem hlinePaintsRun : Obligations.HlinePaintsRun := by
  rintro s color x y len hs rfl rfl rfl
  refine State.completes_area hs rfl fun p => mem_rectPixels.trans ?_
  rw [Int.lt_add_one_iff, ← le_antisymm_iff, eq_comm (b := p.2)]
  rfl

/-- Settles O15: a rectangle of width 1. -/
theorem vlinePaintsRun : Obligations.VlinePaintsRun := by
  rintro s color x y len hs rfl rfl rfl
  refine State.completes_area hs rfl fun p => mem_rectPixels.trans ?_
  rw [Int.lt_add_one_iff, ← le_antisymm_iff, eq_comm (b := p.1)]
  rfl

/-- An area command without pixels ends in its first turn, with the state as before the issue. -/
theorem State.engineRun_accept_noPixels (hs : s.acceptsCommands) (h : areaColor i = some color)
    (hempty : (s.jobOf i).areaPixels s.width s.height = []) : (s.accept i).engineRun 1 = s := by
  have hend : ((s.jobOf i).ops (s.accept i).width (s.accept i).height)[(s.jobOf i).k]? = none := by
    change ((s.jobOf i).ops s.width s.height)[(s.jobOf i).k]? = none
    rw [Job.ops_area h, hempty]; rfl
  calc (s.accept i).engineRun 1
      = (s.accept i).finish (s.jobOf i) := State.engineTurn_finish rfl hend
    _ = { s.accept i with eng := .idle } := finish_of_areaColor h _
    _ = s := by rw [← hs.2]; rfl

/-- Settles O16: a size of 0 or less leaves the rectangle without pixels. -/
theorem nonPositiveSizesDrawNothing : Obligations.NonPositiveSizesDrawNothing := by
  intro s i color hs w h hsize
  suffices harea : areaColor i = some color ∧
      (s.jobOf i).areaPixels s.width s.height = [] from
    ⟨exec_area hs harea.1, State.engineRun_accept_noPixels hs harea.1 harea.2⟩
  obtain ⟨rfl | ⟨f, rfl⟩, hwh⟩ | ⟨rfl | rfl, hlen⟩ := hsize
  · exact ⟨rfl, rectPixels_nil hwh⟩
  · exact ⟨rfl, (congrArg _ (rectPixels_nil hwh)).trans List.filter_nil⟩
  · exact ⟨rfl, rectPixels_nil (.inl hlen)⟩
  · exact ⟨rfl, rectPixels_nil (.inr hlen)⟩

end

/-! #### LINE, BLIT and ROTATE -/

theorem length_lineFrom_le (l : LineSetup) (fuel : Nat) (err px py : Int) :
    (lineFrom l fuel err px py).length ≤ fuel + 1 := by
  induction fuel generalizing err px py with
  | zero => exact le_rfl
  | succ fuel ih =>
    rw [lineFrom, List.length_cons]
    split
    · exact Nat.succ_le_succ (Nat.zero_le _)
    · exact Nat.succ_le_succ (ih _ _ _)

theorem length_opsLine_le (color : Pixel) (j : Job) (W H : Nat) :
    (opsLine color j W H).length ≤ 65536 := by
  rw [opsLine, List.length_map]
  exact (List.length_filter_le _ _).trans (length_lineFrom_le _ 65535 _ _ _)

/-- The pixels (column, row) of a sprite at (x, y) that land inside the buffer, row-major in the
sprite. -/
def spritePixels (x y : Int) (sw sh W H : Nat) : List (Nat × Nat) :=
  (List.range sh).flatMap fun r : Nat =>
    ((List.range sw).filter fun i : Nat => inb W H (x + i) (y + r)).map fun i => (i, r)

theorem mem_spritePixels {x y : Int} {sw sh W H : Nat} {p : Nat × Nat} :
    p ∈ spritePixels x y sw sh W H ↔ (p.1 < sw ∧ p.2 < sh) ∧ inb W H (x + p.1) (y + p.2) := by
  obtain ⟨i, r⟩ := p
  simp only [spritePixels, List.mem_flatMap, List.mem_map, List.mem_filter, List.mem_range,
    decide_eq_true_iff, Prod.mk.injEq]
  constructor
  · rintro ⟨r, hr, i, ⟨hi, hin⟩, rfl, rfl⟩
    exact ⟨⟨hi, hr⟩, hin⟩
  · rintro ⟨⟨hi, hr⟩, hin⟩
    exact ⟨r, hr, i, ⟨hi, hin⟩, rfl, rfl⟩

theorem spritePixels_rowMajor (x y : Int) (sw sh W H : Nat) :
    (spritePixels x y sw sh W H).Pairwise rowMajor := by
  exact pairwise_rowMajor List.pairwise_lt_range fun _ => List.pairwise_lt_range.filter _

theorem opsBlit_eq (keyed : Bool) (j : Job) (W H : Nat) :
    opsBlit keyed j W H = (spritePixels j.x j.y j.uw j.uh W H).map fun p =>
      .copyS (j.src + 2 * (p.2 * j.uw + p.1)) (j.x + p.1) (j.y + p.2)
        (if keyed then some j.key else none) := by
  simp only [opsBlit, spritePixels, List.map_flatMap, List.map_map, Function.comp_def]
  refine List.flatMap_congr fun r _ => ?_
  rw [← List.filterMap_eq_map, List.filterMap_filter]
  simp only [decide_eq_true_iff]
  rfl

theorem length_spritePixels_le_size (x y : Int) (sw sh W H : Nat) :
    (spritePixels x y sw sh W H).length ≤ sw * sh := by
  have hsub : spritePixels x y sw sh W H ⊆ List.range sw ×ˢ List.range sh := fun p hp => by
    obtain ⟨⟨hi, hr⟩, -⟩ := mem_spritePixels.1 hp
    exact List.mem_product.2 ⟨List.mem_range.2 hi, List.mem_range.2 hr⟩
  have hle := ((nodup_of_rowMajor (spritePixels_rowMajor x y sw sh W H)).subperm hsub).length_le
  rwa [List.length_product, List.length_range, List.length_range] at hle

/-- Distinct pixels of a sprite land on distinct pixels of the buffer. -/
theorem length_spritePixels_le_buffer (x y : Int) (sw sh W H : Nat) :
    (spritePixels x y sw sh W H).length ≤ W * H := by
  have hinj : Function.Injective fun p : Nat × Nat => (x + (p.1 : Int), y + (p.2 : Int)) := by
    rintro ⟨a, b⟩ ⟨c, d⟩ h
    simpa using h
  have hnodup := (nodup_of_rowMajor (spritePixels_rowMajor x y sw sh W H)).map hinj
  rw [← List.length_map (fun p : Nat × Nat => (x + (p.1 : Int), y + (p.2 : Int)))]
  refine length_le_of_inb hnodup fun q hq => ?_
  obtain ⟨p, hp, rfl⟩ := List.mem_map.1 hq
  exact (mem_spritePixels.1 hp).2

/-- `m` rows of `n` entries each. -/
theorem length_rows {α : Type} (f : Nat → Nat → α) (m n : Nat) :
    ((List.range m).flatMap fun r => (List.range n).map (f r)).length = m * n := by
  simp

theorem getElem?_rows {α : Type} (f : Nat → Nat → α) {m n r i : Nat} (hr : r < m) (hi : i < n) :
    ((List.range m).flatMap fun r => (List.range n).map (f r))[r * n + i]? = some (f r i) := by
  induction m with
  | zero => exact absurd hr (Nat.not_lt_zero r)
  | succ m ih =>
    rw [List.range_succ, List.flatMap_append]
    rcases Nat.lt_succ_iff_lt_or_eq.1 hr with hlt | rfl
    · have hin : r * n + i < m * n := calc
        r * n + i < r * n + n := Nat.add_lt_add_left hi _
        _ = (r + 1) * n := (Nat.succ_mul r n).symm
        _ ≤ m * n := Nat.mul_le_mul_right n hlt
      rw [List.getElem?_append_left (by rwa [length_rows]), ih hlt]
    · rw [List.getElem?_append_right (by rw [length_rows]; omega), length_rows]
      simp [hi]

theorem newH_mul_newW (angle : BitVec 16) (w h : Nat) :
    newH angle w h * newW angle w h = w * h := by
  unfold newH newW
  split
  · rfl
  · exact Nat.mul_comm h w

theorem length_opsRotate (angle : BitVec 16) (j : Job) :
    (opsRotate angle j).length = newH angle j.uw j.uh * newW angle j.uw j.uh :=
  length_rows _ _ _

theorem getElem?_opsRotate (angle : BitVec 16) (j : Job) {xp yp : Nat}
    (hx : xp < newW angle j.uw j.uh) (hy : yp < newH angle j.uw j.uh) :
    (opsRotate angle j)[yp * newW angle j.uw j.uh + xp]? =
      some (.rotS (j.src + 2 * ((rotSource angle j.uw j.uh xp yp).2 * j.uw +
          (rotSource angle j.uw j.uh xp yp).1))
        (j.dst + 2 * (yp * newW angle j.uw j.uh + xp))) :=
  getElem?_rows _ hy hx

theorem newW_eq (angle : BitVec 16) (w h : Nat) :
    newW angle w h = if angle = 90 ∨ angle = 270 then h else w := by
  simp [newW, swapsSize]

theorem newH_eq (angle : BitVec 16) (w h : Nat) :
    newH angle w h = if angle = 90 ∨ angle = 270 then w else h := by
  simp [newH, swapsSize]

theorem rotSource_eq {angle : BitVec 16} (hangle : angle ∈ [(0 : BitVec 16), 90, 180, 270])
    (w h xp yp : Nat) :
    rotSource angle w h xp yp =
      (if angle = 0 then xp else if angle = 90 then yp
        else if angle = 180 then w - 1 - xp else w - 1 - yp,
       if angle = 0 then yp else if angle = 90 then h - 1 - xp
        else if angle = 180 then h - 1 - yp else xp) := by
  simp only [List.mem_cons, List.not_mem_nil, or_false] at hangle
  obtain rfl | rfl | rfl | rfl := hangle <;> rfl

/-! #### Every command's operations: their order, their number, their place -/

/-- Settles O27: an area command writes its pixels, BLIT copies its sprite's, ROTATE goes through its
destination, each row-major; LINE keeps the order of its points. -/
theorem commandsPerformInOrder : Obligations.CommandsPerformInOrder := by
  intro j W H lo hi
  refine ⟨fun color hcmd => ?_, fun color hcmd => ?_, fun keyed imm hcmd => ?_,
    fun angle hcmd hangle => ?_⟩
  · have harea := areaColor_eq_some_iff.2 hcmd
    refine ⟨j.areaPixels W H, Job.ops_area harea W H, j.areaPixels_rowMajor W H, ?_⟩
    rintro s rfl rfl hs
    have hat : (j.ops s.width s.height)[j.k]? =
        ((j.areaPixels s.width s.height)[j.k]?).map fun p => .setPix p.1 p.2 color := by
      rw [Job.ops_area harea, paintOps, List.getElem?_map]
    refine ⟨fun p hp => ?_, fun hend => ?_⟩
    · rw [hp] at hat
      rw [State.engineTurn_perform hs hat]
      rfl
    · rw [hend] at hat
      rw [State.engineTurn_finish hs hat, finish_of_areaColor harea]
  · simp only [Job.ops, hcmd]
    rfl
  · refine ⟨spritePixels j.x j.y j.uw j.uh W H, spritePixels_rowMajor .., fun p => mem_spritePixels,
      ?_⟩
    simp only [Job.ops, hcmd]
    exact opsBlit_eq keyed j W H
  · intro w h nw nh
    have hnw : newW angle j.uw j.uh = nw := newW_eq angle _ _
    have hnh : newH angle j.uw j.uh = nh := newH_eq angle _ _
    simp only [Job.ops, hcmd]
    refine ⟨by rw [length_opsRotate, hnw, hnh], fun xp yp hx hy => ?_⟩
    have hop := getElem?_opsRotate angle j (hnw ▸ hx) (hnh ▸ hy)
    rw [hnw, rotSource_eq hangle] at hop
    exact hop

/-- Settles O28: an area command and BLIT visit a pixel of the buffer once, LINE's loop is bounded,
ROTATE's destination has the size of its source. -/
theorem operationCountsBounded : Obligations.OperationCountsBounded := by
  intro j W H
  have harea : ∀ color, areaColor j.cmd = some color → (j.ops W H).length ≤ W * H := by
    intro color h
    rw [Job.ops_area h, paintOps, List.length_map]
    exact j.length_areaPixels_le W H
  cases hcmd : j.cmd with
  | fill | fillRect | rect | hline | vline => exact harea _ (congrArg areaColor hcmd)
  | line color => simp only [Job.ops, hcmd]; exact length_opsLine_le color j W H
  | pixelSet color => simp only [Job.ops, hcmd, opsPixelSet]; split <;> simp
  | pixelGet imm => simp only [Job.ops, hcmd, opsPixelGet]; split <;> simp
  | blit keyed imm =>
    simp only [Job.ops, hcmd, opsBlit_eq, List.length_map]
    exact le_min (length_spritePixels_le_size ..) (length_spritePixels_le_buffer ..)
  | rotate angle =>
    simp only [Job.ops, hcmd]
    exact (length_opsRotate angle j).trans (newH_mul_newW ..)
  | init | run | deinit => simp only [Job.ops, hcmd]

/-- Settles O29, command by command in `Job.ops_inside`. -/
theorem operationsStayInside : Obligations.OperationsStayInside := by
  intro j W H op hop
  have hin := j.ops_inside W H op hop
  cases op <;> exact hin

end Sys2Proof.Machine

/-! ### LINE, PIXEL_SET and PIXEL_GET (43_raster_line_pixel) -/

namespace Sys2Proof.Machine

/-! #### The other axis after k steps along the longer one (R330) -/

/-- The steps made along the shorter axis, of length `minor`, after `k` along the longer one: the
nearest integer to `minor*k / major`, the greater of two. -/
def minorSteps (major minor k : Nat) : Nat := (2 * minor * k + major) / (2 * major)

section
variable {major minor k m : Nat}

theorem minorSteps_eq_iff (hpos : 0 < major) :
    minorSteps major minor k = m ↔
      2 * major * m ≤ 2 * minor * k + major ∧
        2 * minor * k + major < 2 * major * m + 2 * major := by
  rw [minorSteps, Nat.div_eq_iff (by omega), Nat.mul_comm m]
  omega

theorem minorSteps_bounds (hpos : 0 < major) :
    (2 * (minorSteps major minor k : Int) - 1) * major ≤ 2 * minor * k ∧
      2 * minor * k < (2 * (minorSteps major minor k : Int) + 1) * major := by
  obtain ⟨hlo, hhi⟩ := (minorSteps_eq_iff hpos).1 (rfl : minorSteps major minor k = _)
  zify at hlo hhi
  constructor <;> linarith

theorem minorSteps_zero : minorSteps major minor 0 = 0 := by
  rw [minorSteps, Nat.mul_zero, Nat.zero_add, Nat.div_eq_zero_iff]
  omega

theorem minorSteps_last (hle : minor ≤ major) : minorSteps major minor major = minor := by
  obtain rfl | hpos := Nat.eq_zero_or_pos major
  · obtain rfl : minor = 0 := Nat.le_zero.1 hle
    rfl
  · rw [minorSteps_eq_iff hpos, Nat.mul_right_comm]
    omega

/-- The error term of R330's loop after `k` steps along the longer axis. -/
def majorErr (major minor k : Nat) : Int :=
  (minorSteps major minor k + 1) * major - (k + 1) * minor

theorem majorErr_zero : majorErr major minor 0 = major + -minor := by
  simp [majorErr, minorSteps_zero, sub_eq_add_neg]

/-- The loop always steps along the longer axis. -/
theorem neg_minor_le_majorErr (hpos : 0 < major) (hle : minor ≤ major) :
    -(minor : Int) ≤ 2 * majorErr major minor k := by
  obtain ⟨-, hhi⟩ := minorSteps_bounds (minor := minor) (k := k) hpos
  zify at hle
  rw [majorErr]
  linarith

/-- The loop's test for a step along the shorter axis keeps the closed form. -/
theorem minorSteps_succ (hpos : 0 < major) (hle : minor ≤ major) :
    minorSteps major minor (k + 1) =
      minorSteps major minor k + if 2 * majorErr major minor k ≤ major then 1 else 0 := by
  obtain ⟨hlo, hhi⟩ := minorSteps_bounds (minor := minor) (k := k) hpos
  rw [minorSteps_eq_iff hpos, majorErr]
  zify at hle ⊢
  split <;> constructor <;> linarith

theorem majorErr_succ (hpos : 0 < major) (hle : minor ≤ major) :
    majorErr major minor (k + 1) =
      majorErr major minor k + -minor +
        if 2 * majorErr major minor k ≤ major then (major : Int) else 0 := by
  rw [majorErr, minorSteps_succ hpos hle]
  split <;> push_cast [majorErr] <;> ring

end

/-! #### The loop where x is the longer axis -/

/-- The `k`-th point from (x0, y0) with x the longer axis. -/
def majorPoint (x0 y0 sx sy : Int) (adx ady k : Nat) : Int × Int :=
  (x0 + sx * k, y0 + sy * minorSteps adx ady k)

/-- The line from (x0, y0) with `adx` steps of `sx` along x and `ady` of `sy` along y. -/
def lineOfSteps (x0 y0 sx sy : Int) (adx ady : Nat) : LineSetup where
  x1 := x0 + sx * adx
  y1 := y0 + sy * ady
  dx := adx
  dy := -ady
  sx := sx
  sy := sy

/-- The direction along one axis (R330). -/
def lineSign (a b : Int) : Int := if a < b then 1 else -1

theorem natAbs_lineSign (a b : Int) : (lineSign a b).natAbs = 1 := by
  unfold lineSign; split <;> rfl

theorem lineSign_mul_natAbs (a b : Int) : a + lineSign a b * (b - a).natAbs = b := by
  unfold lineSign; split <;> omega

theorem lineSetup_eq (x0 y0 x1 y1 : Int) :
    lineSetup x0 y0 x1 y1 = lineOfSteps x0 y0 (lineSign x0 x1) (lineSign y0 y1)
      (x1 - x0).natAbs (y1 - y0).natAbs := by
  rw [lineOfSteps, lineSign_mul_natAbs, lineSign_mul_natAbs]
  rfl

section
variable {l : LineSetup} {fuel : Nat} {err px py : Int}

theorem lineFrom_end (h : px = l.x1 ∧ py = l.y1) : lineFrom l fuel err px py = [(px, py)] := by
  cases fuel with
  | zero => rfl
  | succ fuel => rw [lineFrom, if_pos h]

/-- A turn of the loop that steps along x. -/
theorem lineFrom_stepX (hend : px ≠ l.x1) (hx : l.dy ≤ 2 * err) :
    lineFrom l (fuel + 1) err px py =
      (px, py) :: lineFrom l fuel (err + l.dy + if 2 * err ≤ l.dx then l.dx else 0)
        (px + l.sx) (if 2 * err ≤ l.dx then py + l.sy else py) := by
  simp [lineFrom, hend, hx]

end

section
variable {x0 y0 sx sy : Int} {adx ady k : Nat}

theorem majorPoint_zero : majorPoint x0 y0 sx sy adx ady 0 = (x0, y0) := by
  simp [majorPoint, minorSteps_zero]

theorem majorPoint_last (hle : ady ≤ adx) :
    majorPoint x0 y0 sx sy adx ady adx = (x0 + sx * adx, y0 + sy * ady) := by
  rw [majorPoint, minorSteps_last hle]

theorem majorPoint_succ (hpos : 0 < adx) (hle : ady ≤ adx) :
    majorPoint x0 y0 sx sy adx ady (k + 1) =
      ((majorPoint x0 y0 sx sy adx ady k).1 + sx,
        if 2 * majorErr adx ady k ≤ adx then (majorPoint x0 y0 sx sy adx ady k).2 + sy
        else (majorPoint x0 y0 sx sy adx ady k).2) := by
  simp only [majorPoint, minorSteps_succ hpos hle]
  split <;> push_cast <;> ring_nf

theorem majorPoint_injective (hsx : sx.natAbs = 1) :
    Function.Injective (majorPoint x0 y0 sx sy adx ady) := fun a b h => by
  have hx : sx * a = sx * b := add_left_cancel (congrArg Prod.fst h)
  exact Int.ofNat_inj.1 (mul_left_cancel₀ (by omega) hx)

/-- From its `k`-th point on, the loop visits the closed form's points to the end point. -/
theorem lineFrom_majorPoint {n fuel : Nat} (hsx : sx.natAbs = 1) (hle : ady ≤ adx)
    (hk : k + n = adx) (hfuel : n ≤ fuel) :
    lineFrom (lineOfSteps x0 y0 sx sy adx ady) fuel (majorErr adx ady k)
        (majorPoint x0 y0 sx sy adx ady k).1 (majorPoint x0 y0 sx sy adx ady k).2 =
      (List.range' k (n + 1)).map (majorPoint x0 y0 sx sy adx ady) := by
  induction n generalizing k fuel with
  | zero =>
    obtain rfl : k = adx := hk
    rw [lineFrom_end (by rw [majorPoint_last hle]; exact ⟨rfl, rfl⟩)]
    rfl
  | succ n ih =>
    obtain ⟨fuel, rfl⟩ : ∃ f, fuel = f + 1 := ⟨fuel - 1, by omega⟩
    have hpos : 0 < adx := by omega
    have hend : (majorPoint x0 y0 sx sy adx ady k).1 ≠ (lineOfSteps x0 y0 sx sy adx ady).x1 := by
      intro h
      have hx : sx * k = sx * adx := add_left_cancel h
      have := mul_left_cancel₀ (by omega) hx
      omega
    have htail := ih (k := k + 1) (fuel := fuel) (by omega) (by omega)
    rw [majorErr_succ hpos hle, majorPoint_succ hpos hle] at htail
    rw [lineFrom_stepX hend (neg_minor_le_majorErr hpos hle), List.range'_succ, List.map_cons]
    exact congrArg _ htail

end

/-- The points of a line whose longer axis is x. -/
theorem linePoints_eq_majorPoints {x0 y0 x1 y1 : Int}
    (hle : (y1 - y0).natAbs ≤ (x1 - x0).natAbs) (hfuel : (x1 - x0).natAbs ≤ 65535) :
    linePoints x0 y0 x1 y1 = (List.range ((x1 - x0).natAbs + 1)).map
      (majorPoint x0 y0 (lineSign x0 x1) (lineSign y0 y1) (x1 - x0).natAbs (y1 - y0).natAbs) := by
  have h := lineFrom_majorPoint (x0 := x0) (y0 := y0) (sy := lineSign y0 y1)
    (natAbs_lineSign x0 x1) hle (Nat.zero_add _) hfuel
  rw [majorPoint_zero, majorErr_zero, ← List.range_eq_range'] at h
  rw [linePoints, lineSetup_eq]
  exact h

/-! #### Exchanging the axes -/

/-- The line with its axes exchanged. -/
def LineSetup.swap (l : LineSetup) : LineSetup where
  x1 := l.y1
  y1 := l.x1
  dx := -l.dy
  dy := -l.dx
  sx := l.sy
  sy := l.sx

theorem lineSetup_swap (x0 y0 x1 y1 : Int) :
    (lineSetup x0 y0 x1 y1).swap = lineSetup y0 x0 y1 x1 := by
  simp [LineSetup.swap, lineSetup]

/-- R330's loop treats the axes alike, ties too, with the error term negated. -/
theorem lineFrom_swap (l : LineSetup) (fuel : Nat) (err px py : Int) :
    lineFrom l.swap fuel (-err) py px = (lineFrom l fuel err px py).map Prod.swap := by
  induction fuel generalizing err px py with
  | zero => rfl
  | succ fuel ih =>
    have hx : 2 * -err ≥ l.swap.dy ↔ 2 * err ≤ l.dx := by simp only [LineSetup.swap]; omega
    have hy : 2 * -err ≤ l.swap.dx ↔ 2 * err ≥ l.dy := by simp only [LineSetup.swap]; omega
    have hend : py = l.swap.x1 ∧ px = l.swap.y1 ↔ px = l.x1 ∧ py = l.y1 := and_comm
    simp only [lineFrom, List.map_cons, hx, hy, hend]
    refine congrArg _ ?_
    split
    · rfl
    · rw [← ih]
      congr 1
      simp only [LineSetup.swap, decide_eq_true_iff]
      split <;> split <;> ring

theorem linePoints_swap (x0 y0 x1 y1 : Int) :
    linePoints y0 x0 y1 x1 = (linePoints x0 y0 x1 y1).map Prod.swap := by
  rw [linePoints, linePoints, ← lineFrom_swap, ← lineSetup_swap]
  congr 1
  simp only [LineSetup.swap]
  ring

/-! #### Lines join their end points -/

/-- Two points next to each other, across a corner too. -/
def Neighbours (p q : Int × Int) : Prop :=
  (q.1 - p.1).natAbs ≤ 1 ∧ (q.2 - p.2).natAbs ≤ 1 ∧ p ≠ q

theorem Neighbours.swap {p q : Int × Int} (h : Neighbours p q) : Neighbours p.swap q.swap :=
  ⟨h.2.1, h.1, fun he => h.2.2 (Prod.swap_injective he)⟩

/-- The list is a path of `n` steps from `p` to `q` that meets no point twice. -/
structure IsPath (pts : List (Int × Int)) (n : Nat) (p q : Int × Int) : Prop where
  length : pts.length = n + 1
  head : pts.head? = some p
  last : pts.getLast? = some q
  chain : pts.IsChain Neighbours
  nodup : pts.Nodup

theorem IsPath.swap {pts : List (Int × Int)} {n : Nat} {p q : Int × Int} (h : IsPath pts n p q) :
    IsPath (pts.map Prod.swap) n p.swap q.swap where
  length := by rw [List.length_map, h.length]
  head := by rw [List.head?_map, h.head]; rfl
  last := by rw [List.getLast?_map, h.last]; rfl
  chain := List.isChain_map_of_isChain Prod.swap (fun _ _ => Neighbours.swap) h.chain
  nodup := h.nodup.map Prod.swap_injective

theorem neighbours_majorPoint_succ {x0 y0 sx sy : Int} {adx ady k : Nat} (hsx : sx.natAbs = 1)
    (hsy : sy.natAbs = 1) (hpos : 0 < adx) (hle : ady ≤ adx) :
    Neighbours (majorPoint x0 y0 sx sy adx ady k) (majorPoint x0 y0 sx sy adx ady (k + 1)) := by
  refine ⟨?_, ?_, fun h => absurd (majorPoint_injective hsx h) (by omega)⟩
  · rw [majorPoint_succ hpos hle]; simp [hsx]
  · rw [majorPoint_succ hpos hle]; dsimp only; split <;> simp [hsy]

theorem isPath_majorPoints {x0 y0 sx sy : Int} {adx ady : Nat} (hsx : sx.natAbs = 1)
    (hsy : sy.natAbs = 1) (hle : ady ≤ adx) :
    IsPath ((List.range (adx + 1)).map (majorPoint x0 y0 sx sy adx ady)) adx (x0, y0)
      (x0 + sx * adx, y0 + sy * ady) where
  length := by rw [List.length_map, List.length_range]
  head := by rw [List.range_succ_eq_map, List.map_cons, List.head?_cons, majorPoint_zero]
  last := by rw [List.range_succ, List.map_append, List.map_singleton, List.getLast?_concat,
    majorPoint_last hle]
  chain := by
    rw [List.isChain_map, List.isChain_range]
    exact fun k hk => neighbours_majorPoint_succ hsx hsy (by omega) hle
  nodup := List.nodup_range.map (majorPoint_injective hsx)

section
variable {x0 y0 x1 y1 : Int}

theorem isPath_linePoints_major (hle : (y1 - y0).natAbs ≤ (x1 - x0).natAbs)
    (hfuel : (x1 - x0).natAbs ≤ 65535) :
    IsPath (linePoints x0 y0 x1 y1) (x1 - x0).natAbs (x0, y0) (x1, y1) := by
  have h := isPath_majorPoints (x0 := x0) (y0 := y0) (natAbs_lineSign x0 x1)
    (natAbs_lineSign y0 y1) hle
  rwa [← linePoints_eq_majorPoints hle hfuel, lineSign_mul_natAbs, lineSign_mul_natAbs] at h

theorem isPath_linePoints (hx : (x1 - x0).natAbs ≤ 65535) (hy : (y1 - y0).natAbs ≤ 65535) :
    IsPath (linePoints x0 y0 x1 y1) (max (x1 - x0).natAbs (y1 - y0).natAbs) (x0, y0) (x1, y1) := by
  rcases le_total (y1 - y0).natAbs (x1 - x0).natAbs with hle | hle
  · rw [max_eq_left hle]
    exact isPath_linePoints_major hle hx
  · rw [max_eq_right hle, linePoints_swap y0 x0 y1 x1]
    exact (isPath_linePoints_major hle hy).swap

/-- The `k`-th point of a line whose longer axis is x. -/
theorem getElem?_linePoints_major {k : Nat} (hle : (y1 - y0).natAbs ≤ (x1 - x0).natAbs)
    (hfuel : (x1 - x0).natAbs ≤ 65535) (hk : k ≤ (x1 - x0).natAbs) :
    (linePoints x0 y0 x1 y1)[k]? = some (x0 + lineSign x0 x1 * k,
      y0 + lineSign y0 y1 * minorSteps (x1 - x0).natAbs (y1 - y0).natAbs k) := by
  rw [linePoints_eq_majorPoints hle hfuel, List.getElem?_map,
    List.getElem?_range (Nat.lt_succ_of_le hk)]
  rfl

end

/-- s16 coordinates are at most 65535 apart. -/
theorem natAbs_sub_toInt_le (a b : BitVec 16) : (b.toInt - a.toInt).natAbs ≤ 65535 := by
  have := a.le_toInt
  have := a.toInt_lt
  have := b.le_toInt
  have := b.toInt_lt
  omega

/-- Settles O18: the loop's points in closed form along the longer axis, y being that axis where the
exchanged line's is x. -/
theorem linePointsJoinEnds : Obligations.LinePointsJoinEnds := by
  intro a0 b0 a1 b1 x0 y0 x1 y1 adx ady sx sy pts
  have hx : (x1 - x0).natAbs ≤ 65535 := natAbs_sub_toInt_le a0 a1
  have hy : (y1 - y0).natAbs ≤ 65535 := natAbs_sub_toInt_le b0 b1
  obtain ⟨hlength, hhead, hlast, hchain, hnodup⟩ :=
    isPath_linePoints (x0 := x0) (y0 := y0) (x1 := x1) (y1 := y1) hx hy
  refine ⟨hlength, hhead, hlast, hchain, hnodup, fun hle hpos k hk => ?_, fun hlt k hk => ?_⟩
  · exact ⟨_, minorSteps_bounds (Int.natCast_pos.1 hpos),
      getElem?_linePoints_major (Int.ofNat_le.1 hle) hx (Int.ofNat_le.1 hk)⟩
  · have hlt : (x1 - x0).natAbs < (y1 - y0).natAbs := Int.ofNat_lt.1 hlt
    refine ⟨_, minorSteps_bounds (Nat.zero_lt_of_lt hlt), ?_⟩
    change (linePoints x0 y0 x1 y1)[k]? = _
    rw [linePoints_swap y0 x0 y1 x1, List.getElem?_map,
      getElem?_linePoints_major hlt.le hy (Int.ofNat_le.1 hk)]
    rfl

/-! #### LINE and PIXEL_SET paint -/

/-- Settles O17: LINE keeps the points inside the buffer. -/
theorem linePaintsItsPoints : Obligations.LinePaintsItsPoints := by
  rintro s color x0 y0 x1 y1 hs rfl rfl rfl rfl
  have hlen := length_opsLine_le color (s.jobOf (.line color)) s.width s.height
  rw [opsLine, List.length_map] at hlen
  refine State.completes_painting hs rfl rfl (fun u j hj => by simp only [State.finish, hj]) _ rfl
    (fun p => ?_) (Nat.succ_le_succ hlen)
  rw [List.mem_filter, decide_eq_true_iff, and_comm]
  rfl

theorem opsPixelSet_eq (color : Pixel) (j : Job) (W H : Nat) :
    opsPixelSet color j W H = paintOps color (if inb W H j.x j.y then [(j.x, j.y)] else []) := by
  unfold opsPixelSet
  split <;> rfl

/-- Settles O19: PIXEL_SET has one point, or none outside the buffer. -/
theorem pixelSetWritesItsPixel : Obligations.PixelSetWritesItsPixel := by
  rintro s color x y hs rfl rfl
  refine State.completes_painting hs rfl rfl (fun u j hj => by simp only [State.finish, hj]) _
    (opsPixelSet_eq color (s.jobOf (.pixelSet color)) _ _) (fun p => ?_) (by split <;> simp)
  obtain ⟨px, py⟩ := p
  split
  · rename_i hin
    rw [List.mem_singleton, Prod.mk.injEq]
    exact ⟨fun ⟨hx, hy⟩ => ⟨by rw [hx, hy]; exact hin, hx, hy⟩, And.right⟩
  · rename_i hout
    refine ⟨fun h => absurd h List.not_mem_nil, fun ⟨hin, hx, hy⟩ => ?_⟩
    dsimp only at hin hx hy
    rw [hx, hy] at hin
    exact absurd hin hout

/-! #### PIXEL_GET reads -/

/-- The job of PIXEL_GET once it holds the pixel read. -/
def Job.gotPixel (j : Job) (v : Pixel) : Job := { j with k := 1, held := some v }

section
variable {s : State} {j : Job} {imm : BitVec 16} (hj : j.cmd = .pixelGet imm)
include hj

theorem Job.ops_pixelGet_inside {W H : Nat} (hin : inb W H j.x j.y) :
    j.ops W H = [.getPix j.x j.y] := by
  simp only [Job.ops, hj, opsPixelGet, if_pos hin]

theorem Job.ops_pixelGet_outside {W H : Nat} (hout : ¬inb W H j.x j.y) : j.ops W H = [] := by
  simp only [Job.ops, hj, opsPixelGet, if_neg hout]

/-- The end of PIXEL_GET, in a state Idle but for it. -/
theorem State.finish_pixelGet (hs : s.eng = .idle) :
    { s with eng := .exec j }.finish j = { s with result0 := pixelGetResult j.held } := by
  simp only [State.finish, hj, ← hs]

/-- Inside the buffer the first turn reads the pixel. -/
theorem State.engineTurn_pixelGet_inside (hk : j.k = 0) (hin : inb s.width s.height j.x j.y) :
    { s with eng := .exec j }.engineTurn =
      { s with eng := .exec (j.gotPixel (s.pix j.x j.y)) } := by
  have hop : (j.ops s.width s.height)[j.k]? = some (.getPix j.x j.y) := by
    rw [Job.ops_pixelGet_inside hj hin, hk]; rfl
  rw [State.engineTurn_perform (s := { s with eng := .exec j }) rfl hop, State.perform, hk]
  rfl

/-- The turn after the read writes RESULT0. -/
theorem State.engineTurn_gotPixel (hs : s.eng = .idle) (hin : inb s.width s.height j.x j.y)
    (v : Pixel) :
    { s with eng := .exec (j.gotPixel v) }.engineTurn = { s with result0 := v.setWidth 32 } := by
  have hend : ((j.gotPixel v).ops s.width s.height)[(j.gotPixel v).k]? = none := by
    rw [Job.ops_pixelGet_inside (j := j.gotPixel v) hj hin]; rfl
  rw [State.engineTurn_finish (s := { s with eng := .exec (j.gotPixel v) }) rfl hend,
    State.finish_pixelGet (j := j.gotPixel v) hj hs]
  rfl

/-- Outside the buffer the first turn writes the sentinel to RESULT0. -/
theorem State.engineTurn_pixelGet_outside (hs : s.eng = .idle) (hheld : j.held = none)
    (hout : ¬inb s.width s.height j.x j.y) :
    { s with eng := .exec j }.engineTurn = { s with result0 := 0xFFFFFFFF } := by
  have hend : (j.ops s.width s.height)[j.k]? = none := by
    rw [Job.ops_pixelGet_outside hj hout]; rfl
  rw [State.engineTurn_finish (s := { s with eng := .exec j }) rfl hend,
    State.finish_pixelGet hj hs, hheld]
  rfl

end

/-- Settles O20: inside the buffer one turn reads and the next ends, outside the first ends. -/
theorem pixelGetReadsPixelOrSentinel : Obligations.PixelGetReadsPixelOrSentinel := by
  rintro s imm x y hs rfl rfl
  refine ⟨exec_accepts hs rfl rfl, fun hin => ?_,
    State.engineTurn_pixelGet_outside (j := s.jobOf (.pixelGet imm)) rfl hs.2 rfl⟩
  have hread : (s.accept (.pixelGet imm)).engineTurn = _ :=
    State.engineTurn_pixelGet_inside (j := s.jobOf (.pixelGet imm)) rfl rfl hin
  simp only [State.engineRun, hread]
  exact ⟨State.status_busy _, trivial, State.engineTurn_gotPixel (j := s.jobOf (.pixelGet imm)) rfl hs.2 hin _⟩

end Sys2Proof.Machine

/-! ### BLIT and ROTATE (44_raster_blit_rotate) -/

namespace Sys2Proof.Machine

/-! #### The argument checks (R361, R376) and ROTATE's result (R380) -/

section
variable {s : State} {i : Instr}

/-- Where commands are accepted, only the argument check is left. -/
theorem exec_checked {P : Prop} [Decidable P] (hs : s.acceptsCommands) (hp : i.port = .cmd)
    (hP : (s.jobOf i).argsInvalid s.build.scrBytes = true ↔ P) :
    exec i s = if P then .next (s.raise .arg) else .next (s.accept i) := by
  rw [exec_raster i s hp]
  split
  · rw [hP.2 ‹P›, State.issue_badArgs hs]
  · exact State.issue_accepts i hs.1 hs.2 (Bool.eq_false_iff.2 (mt hP.1 ‹¬P›))

/-- Settles O22: R361's two cases are the argument check. -/
theorem blitArgumentCheck : Obligations.BlitArgumentCheck :=
  fun _ _ _ hs => exec_checked hs rfl decide_eq_true_iff

theorem validAngle_eq_false_iff (angle : BitVec 16) :
    validAngle angle = false ↔ angle ∉ [(0 : BitVec 16), 90, 180, 270] := by
  simp [validAngle, and_assoc]

theorem rotateArgsInvalid_iff (angle : BitVec 16) (j : Job) (scrBytes : Nat) :
    rotateArgsInvalid angle j scrBytes = true ↔
      angle ∉ [(0 : BitVec 16), 90, 180, 270] ∨ (j.src % 2 = 1 ∨ j.dst % 2 = 1) ∨
      (j.src + 2 * j.uw * j.uh > scrBytes ∨ j.dst + 2 * j.uw * j.uh > scrBytes) ∨
      (j.uw * j.uh > 0 ∧ j.src < j.dst + 2 * j.uw * j.uh ∧
        j.dst < j.src + 2 * j.uw * j.uh) := by
  rw [rotateArgsInvalid, decide_eq_true_iff, validAngle_eq_false_iff]

/-- Settles O24: R376's four cases are the argument check. -/
theorem rotateArgumentCheck : Obligations.RotateArgumentCheck :=
  fun _ angle hs => exec_checked hs rfl (rotateArgsInvalid_iff angle _ _)

theorem rotateResult_eq (angle : BitVec 16) (j : Job) :
    rotateResult angle j = if angle = 90 ∨ angle = 270 then lowHalf j.a1 ++ highHalf j.a1
      else highHalf j.a1 ++ lowHalf j.a1 := by
  rw [rotateResult, newW_eq, newH_eq]
  split <;> simp [Job.uw, Job.uh, u16]

theorem State.finish_rotate {j : Job} {angle : BitVec 16} (hcmd : j.cmd = .rotate angle) :
    s.finish j = { s with result1 := rotateResult angle j, eng := .idle } := by
  simp only [State.finish, hcmd]

/-- Settles O25: the turn past the last operation ends the command; a rejection raises a flag only. -/
theorem rotateResultIsNewSize : Obligations.RotateResultIsNewSize := by
  refine ⟨fun s j angle hj hcmd hend => ?_, fun s t angle h hne => ?_⟩
  · rw [State.engineTurn_finish hj (List.getElem?_eq_none hend), State.finish_rotate hcmd,
      rotateResult_eq]
    rfl
  · cases exec_cases h with
    | rejected f => rfl
    | accepted => exact absurd rfl hne

end

/-! #### Pixels moved from SCR to a memory -/

/-- A pixel of SCR to be moved: the byte offsets it is read and written at. -/
structure Move where
  src : Nat
  dst : Nat

/-- Two pixels at these byte offsets share no byte. -/
abbrev apart (a b : Nat) : Prop := a + 2 ≤ b ∨ b + 2 ≤ a

/-- The pixel read in SCR is written to the memory `sp`, unless it is the one to skip. -/
def State.movePixel (sp : Space) (skip : Option Pixel) (s : State) (m : Move) : State :=
  if skip = some (s.sPix m.src) then s else s.memWrite sp m.dst (pixelBytes (s.sPix m.src))

/-- Pixels moved one after the other. -/
def State.movePixels (sp : Space) (skip : Option Pixel) (s : State) (ms : List Move) : State :=
  ms.foldl (State.movePixel sp skip) s

/-- A state with one memory replaced. -/
def State.setMem (s : State) : Space → Memory → State
  | .fb, m => { s with fb := m }
  | .scr, m => { s with scr := m }

section
variable (sp : Space) (skip : Option Pixel) (s : State) (m : Move) (ms : List Move)

theorem State.setMem_width (mem : Memory) : (s.setMem sp mem).width = s.width := by
  cases sp <;> rfl

theorem State.eq_setMem : ∃ mem, s = s.setMem sp mem :=
  match sp with
  | .fb => ⟨s.fb, rfl⟩
  | .scr => ⟨s.scr, rfl⟩

theorem State.setMem_setMem (mem mem' : Memory) :
    (s.setMem sp mem).setMem sp mem' = s.setMem sp mem' := by
  cases sp <;> rfl

theorem State.movePixel_eq_setMem : ∃ mem, s.movePixel sp skip m = s.setMem sp mem := by
  unfold State.movePixel
  split
  · exact s.eq_setMem sp
  · cases sp <;> exact ⟨_, rfl⟩

/-- Moving pixels to a memory changes that memory only. -/
theorem State.movePixels_eq_setMem :
    ∃ mem, State.movePixels sp skip s ms = s.setMem sp mem := by
  induction ms generalizing s with
  | nil => exact s.eq_setMem sp
  | cons m ms ih =>
    obtain ⟨mem, hfirst⟩ := s.movePixel_eq_setMem sp skip m
    obtain ⟨mem', hrest⟩ := ih (s.setMem sp mem)
    refine ⟨mem', ?_⟩
    rw [State.movePixels, List.foldl_cons, hfirst]
    exact hrest.trans (s.setMem_setMem sp mem mem')

theorem State.movePixels_width : (State.movePixels sp skip s ms).width = s.width := by
  obtain ⟨mem, h⟩ := s.movePixels_eq_setMem sp skip ms
  rw [h, State.setMem_width]

variable {sp skip s m ms}

theorem State.byteAt_movePixel_outside {a : Nat} (h : a < m.dst ∨ m.dst + 2 ≤ a) :
    (s.movePixel sp skip m).byteAt sp a = s.byteAt sp a := by
  unfold State.movePixel
  split
  · rfl
  · exact State.byteAt_memWrite_outside _ _ _ _ h

theorem State.pixelAt_movePixel_apart {sp' : Space} {off : Nat}
    (h : sp ≠ sp' ∨ apart off m.dst) :
    (s.movePixel sp skip m).pixelAt sp' off = s.pixelAt sp' off := by
  unfold State.movePixel
  split
  · rfl
  · exact State.pixelAt_memWrite_disjoint _ _ _ _ h

theorem State.pixelAt_movePixel_dst :
    (s.movePixel sp skip m).pixelAt sp m.dst =
      if skip = some (s.sPix m.src) then s.pixelAt sp m.dst else s.sPix m.src := by
  unfold State.movePixel
  split
  · rfl
  · exact State.pixelAt_memWrite_same _ _ _ _

theorem State.byteAt_movePixels_outside {a : Nat}
    (h : ∀ m ∈ ms, a < m.dst ∨ m.dst + 2 ≤ a) :
    (State.movePixels sp skip s ms).byteAt sp a = s.byteAt sp a := by
  induction ms generalizing s with
  | nil => rfl
  | cons m ms ih =>
    obtain ⟨hm, hms⟩ := List.forall_mem_cons.1 h
    exact (ih hms).trans (State.byteAt_movePixel_outside hm)

theorem State.pixelAt_movePixels_apart {off : Nat} (h : ∀ m ∈ ms, apart off m.dst) :
    (State.movePixels sp skip s ms).pixelAt sp off = s.pixelAt sp off := by
  induction ms generalizing s with
  | nil => rfl
  | cons m ms ih =>
    obtain ⟨hm, hms⟩ := List.forall_mem_cons.1 h
    exact (ih hms).trans (State.pixelAt_movePixel_apart (.inr hm))

/-- Where no pixel written overlaps another or one that is read, each arrives as it was before. -/
theorem State.pixelAt_movePixels_dst (hdst : ms.Pairwise fun m m' => apart m.dst m'.dst)
    (hsrc : sp ≠ .scr ∨ ∀ m ∈ ms, ∀ m' ∈ ms, apart m.src m'.dst) (hm : m ∈ ms) :
    (State.movePixels sp skip s ms).pixelAt sp m.dst =
      if skip = some (s.sPix m.src) then s.pixelAt sp m.dst else s.sPix m.src := by
  induction ms generalizing s with
  | nil => exact absurd hm List.not_mem_nil
  | cons m₀ ms ih =>
    obtain ⟨hhead, htail⟩ := List.pairwise_cons.1 hdst
    rcases List.mem_cons.1 hm with rfl | hm
    · exact (State.pixelAt_movePixels_apart hhead).trans State.pixelAt_movePixel_dst
    · have hread : (s.movePixel sp skip m₀).sPix m.src = s.sPix m.src :=
        State.pixelAt_movePixel_apart (hsrc.imp_right fun h =>
          h m (List.mem_cons_of_mem _ hm) m₀ List.mem_cons_self)
      have hkept : (s.movePixel sp skip m₀).pixelAt sp m.dst = s.pixelAt sp m.dst :=
        State.pixelAt_movePixel_apart (.inr (hhead m hm).symm)
      have hsrc' := hsrc.imp_right fun h m hm m' hm' =>
        h m (List.mem_cons_of_mem m₀ hm) m' (List.mem_cons_of_mem m₀ hm')
      rw [← hread, ← hkept]
      exact ih htail hsrc' hm

end

/-- A command that moves pixels completes, having moved them and ended as its kind does. -/
theorem State.engineRun_moves {i : Instr} {s : State} {sp : Space} {skip : Option Pixel}
    {ms : List Move} {ops : List Op} (hops : (s.jobOf i).ops s.width s.height = ops)
    (hg : ∀ x y, Op.getPix x y ∉ ops)
    (hmoves : ops.foldl (fun s op => op.apply s) s = State.movePixels sp skip s ms) :
    ∃ n ≤ 2 * ops.length + 1, ∃ mem,
      State.movePixels sp skip s ms = s.setMem sp mem ∧
      (s.accept i).engineRun n = (s.setMem sp mem).finish ((s.jobOf i).at ops.length) := by
  subst hops
  obtain ⟨n, hn, -, hrun⟩ := s.engineRun_accept i hg
  obtain ⟨mem, hmem⟩ := s.movePixels_eq_setMem sp skip ms
  exact ⟨n, hn, mem, hmem, by rw [hrun, hmoves, hmem]⟩

/-! #### BLIT moves the visible sprite (R360) -/

/-- Where BLIT moves the sprite's pixel `p` (column, row), in a buffer of width `W`. -/
def Job.blitMove (j : Job) (W : Nat) (p : Nat × Nat) : Move where
  src := j.src + 2 * (p.2 * j.uw + p.1)
  dst := pixOff W (j.x + p.1) (j.y + p.2)

/-- What BLIT does not copy: with K = 1 the KEY copy. -/
def Job.blitSkip (j : Job) (keyed : Bool) : Option Pixel := if keyed then some j.key else none

/-- BLIT's moves, in order. -/
def Job.blitMoves (j : Job) (W H : Nat) : List Move :=
  (spritePixels j.x j.y j.uw j.uh W H).map (j.blitMove W)

section
variable {j : Job} {W H : Nat}

theorem Job.blitSkip_eq_some_iff {keyed : Bool} {v : Pixel} :
    j.blitSkip keyed = some v ↔ keyed = true ∧ v = j.key := by
  cases keyed <;> simp [Job.blitSkip, eq_comm]

/-- BLIT's operations are its moves. -/
theorem foldl_opsBlit (keyed : Bool) (j : Job) (H : Nat) (s : State) :
    (opsBlit keyed j s.width H).foldl (fun s op => op.apply s) s =
      State.movePixels .fb (j.blitSkip keyed) s (j.blitMoves s.width H) := by
  rw [opsBlit_eq, List.foldl_map, State.movePixels, Job.blitMoves, List.foldl_map]
  generalize spritePixels j.x j.y j.uw j.uh s.width H = ps
  generalize hW : s.width = W
  induction ps generalizing s with
  | nil => rfl
  | cons p ps ih =>
    have hop : Op.apply (.copyS (j.src + 2 * (p.2 * j.uw + p.1)) (j.x + p.1) (j.y + p.2)
        (if keyed then some j.key else none)) s =
        s.movePixel .fb (j.blitSkip keyed) (j.blitMove W p) := by
      rw [← hW]; rfl
    rw [List.foldl_cons, List.foldl_cons, hop]
    refine ih _ ?_
    rw [← hop, Op.apply_width, hW]

/-- Distinct pixels of the sprite land apart. -/
theorem pairwise_apart_blitMoves :
    (j.blitMoves W H).Pairwise fun m m' => apart m.dst m'.dst := by
  refine List.pairwise_map.2 ((nodup_of_rowMajor (spritePixels_rowMajor ..)).pairwise_of_forall_ne
    fun p hp q hq hne => ?_)
  refine pixOff_disjoint (mem_spritePixels.1 hq).2 (mem_spritePixels.1 hp).2
    fun ⟨hx, hy⟩ => hne (Prod.ext ?_ ?_) <;> omega

/-- The sprite's pixel that lands at (px, py), and the one BLIT moves there. -/
theorem mem_blitMoves {px py : Int} (hin : inb W H px py)
    (hsprite : (j.x ≤ px ∧ px < j.x + j.uw) ∧ (j.y ≤ py ∧ py < j.y + j.uh)) :
    ⟨j.src + 2 * ((py - j.y).toNat * j.uw + (px - j.x).toNat), pixOff W px py⟩ ∈
      j.blitMoves W H := by
  have hx : j.x + ((px - j.x).toNat : Int) = px := by omega
  have hy : j.y + ((py - j.y).toNat : Int) = py := by omega
  refine List.mem_map.2 ⟨((px - j.x).toNat, (py - j.y).toNat), mem_spritePixels.2 ⟨?_, ?_⟩, ?_⟩
  · constructor <;> omega
  · rwa [hx, hy]
  · rw [Job.blitMove, hx, hy]

/-- No move lands on a pixel the sprite does not cover. -/
theorem apart_blitMoves_of_not_sprite {px py : Int} (hin : inb W H px py)
    (hout : ¬((j.x ≤ px ∧ px < j.x + j.uw) ∧ (j.y ≤ py ∧ py < j.y + j.uh))) :
    ∀ m ∈ j.blitMoves W H, apart (pixOff W px py) m.dst := by
  intro m hm
  obtain ⟨p, hp, rfl⟩ := List.mem_map.1 hm
  obtain ⟨⟨hi, hr⟩, hland⟩ := mem_spritePixels.1 hp
  exact pixOff_disjoint hland hin fun ⟨hx, hy⟩ => hout (by omega)

/-- Every move lands inside the Framebuffer Store. -/
theorem blitMoves_dst_le : ∀ m ∈ j.blitMoves W H, m.dst + 2 ≤ 2 * W * H := by
  intro m hm
  obtain ⟨p, hp, rfl⟩ := List.mem_map.1 hm
  exact pixOff_lt (mem_spritePixels.1 hp).2

/-- A pixel after BLIT's moves: the sprite's where it covers the pixel and is not skipped. -/
theorem State.pix_blitMoves (s : State) (j : Job) (keyed : Bool) {px py : Int}
    (hin : inb s.width s.height px py) :
    let v := s.sPix (j.src + 2 * ((py - j.y).toNat * j.uw + (px - j.x).toNat))
    (State.movePixels .fb (j.blitSkip keyed) s (j.blitMoves s.width s.height)).pix px py =
      if ((j.x ≤ px ∧ px < j.x + j.uw) ∧ (j.y ≤ py ∧ py < j.y + j.uh)) ∧
          ¬(keyed = true ∧ v = j.key)
      then v else s.pix px py := by
  intro v
  rw [State.pix, State.movePixels_width]
  by_cases hsprite : (j.x ≤ px ∧ px < j.x + j.uw) ∧ (j.y ≤ py ∧ py < j.y + j.uh)
  · have hmoved := State.pixelAt_movePixels_dst (sp := .fb) (skip := j.blitSkip keyed) (s := s)
      pairwise_apart_blitMoves (.inl (by decide)) (mem_blitMoves hin hsprite)
    simp only [hmoved, eq_true hsprite, true_and, ite_not, Job.blitSkip_eq_some_iff]
    rfl
  · rw [State.pixelAt_movePixels_apart (apart_blitMoves_of_not_sprite hin hsprite)]
    exact (if_neg fun h => hsprite h.1).symm

end

theorem State.finish_blit {s : State} {j : Job} {keyed : Bool} {imm : BitVec 16}
    (hcmd : j.cmd = .blit keyed imm) : s.finish j = { s with eng := .idle } := by
  simp only [State.finish, hcmd]

/-- Accepted and left to the engine alone, BLIT makes its moves. -/
theorem State.engineRun_blit {s : State} {j : Job} (hs : s.acceptsCommands) (keyed : Bool)
    (imm : BitVec 16) (hj : s.jobOf (.blit keyed imm) = j) :
    ∃ n ≤ 2 * (j.uw * j.uh) + 1, ∃ m : Memory,
      State.movePixels .fb (j.blitSkip keyed) s (j.blitMoves s.width s.height) =
        { s with fb := m } ∧
      (s.accept (.blit keyed imm)).engineRun n = { s with fb := m } := by
  subst hj
  obtain ⟨n, hn, m, hm, hrun⟩ := State.engineRun_moves (s := s) (i := .blit keyed imm)
    (ops := opsBlit keyed (s.jobOf (.blit keyed imm)) s.width s.height) rfl
    (by simp [opsBlit_eq]) (foldl_opsBlit keyed (s.jobOf (.blit keyed imm)) s.height s)
  rw [opsBlit_eq, List.length_map] at hn
  refine ⟨n, hn.trans (Nat.succ_le_succ (Nat.mul_le_mul_left 2 (length_spritePixels_le_size ..))),
    m, hm, hrun.trans ?_⟩
  rw [State.finish_blit rfl, ← hs.2]
  rfl

/-- Settles O21: the moves land apart and FB is not read, so each visible pixel arrives. -/
theorem blitCopiesVisibleSprite : Obligations.BlitCopiesVisibleSprite := by
  rintro s keyed imm x y sw sh src hs rfl rfl rfl rfl rfl heven hfit
  refine ⟨(blitArgumentCheck s keyed imm hs).trans (if_neg (by omega)), ?_⟩
  obtain ⟨n, hn, m, hm, hrun⟩ := State.engineRun_blit hs keyed imm rfl
  refine ⟨n, hn, m, hrun, fun px py hin => ?_, fun a ha => ?_⟩
  · rw [← hm]
    exact s.pix_blitMoves (s.jobOf (.blit keyed imm)) keyed hin
  · rw [← hm]
    exact State.byteAt_movePixels_outside fun m hm => .inr ((blitMoves_dst_le m hm).trans ha)

/-! #### ROTATE moves its source turned (R375) -/

/-- The pixels (column, row) of a `w` x `h` buffer, row-major. -/
def bufferPixels (w h : Nat) : List (Nat × Nat) :=
  (List.range h).flatMap fun y => (List.range w).map fun x => (x, y)

section
variable {w h : Nat}

theorem mem_bufferPixels {p : Nat × Nat} : p ∈ bufferPixels w h ↔ p.1 < w ∧ p.2 < h := by
  obtain ⟨x, y⟩ := p
  simp [bufferPixels, and_comm]

theorem bufferPixels_rowMajor (w h : Nat) : (bufferPixels w h).Pairwise rowMajor :=
  pairwise_rowMajor List.pairwise_lt_range fun _ => List.pairwise_lt_range

/-- The index `y*w + x` rises in row-major order. -/
theorem pixelIndex_lt {p q : Nat × Nat} (hp : p.1 < w) (hpq : rowMajor p q) :
    p.2 * w + p.1 < q.2 * w + q.1 := by
  rcases hpq with hrow | ⟨hrow, hcol⟩
  · calc p.2 * w + p.1 < p.2 * w + w := Nat.add_lt_add_left hp _
      _ = (p.2 + 1) * w := (Nat.succ_mul p.2 w).symm
      _ ≤ q.2 * w := Nat.mul_le_mul_right w hrow
      _ ≤ q.2 * w + q.1 := Nat.le_add_right _ _
  · rw [hrow]
    exact Nat.add_lt_add_left hcol _

theorem pixelIndex_lt_size {x y : Nat} (hx : x < w) (hy : y < h) : y * w + x < w * h :=
  calc y * w + x < h * w := pixelIndex_lt (p := (x, y)) (q := (0, h)) hx (.inl hy)
    _ = w * h := Nat.mul_comm h w

/-- Where ROTATE puts source pixel (x, y) (R375). -/
def rotDest (angle : BitVec 16) (w h x y : Nat) : Nat × Nat :=
  if angle = 90 then (h - 1 - y, x)
  else if angle = 180 then (w - 1 - x, h - 1 - y)
  else if angle = 270 then (y, w - 1 - x)
  else (x, y)

theorem rotSource_lt {angle : BitVec 16} {xp yp : Nat} (hx : xp < newW angle w h)
    (hy : yp < newH angle w h) :
    (rotSource angle w h xp yp).1 < w ∧ (rotSource angle w h xp yp).2 < h := by
  rw [newW_eq] at hx
  rw [newH_eq] at hy
  unfold rotSource
  split_ifs <;> grind

theorem rotDest_lt (angle : BitVec 16) {x y : Nat} (hx : x < w) (hy : y < h) :
    (rotDest angle w h x y).1 < newW angle w h ∧ (rotDest angle w h x y).2 < newH angle w h := by
  have hx' : w - 1 - x < w := by omega
  have hy' : h - 1 - y < h := by omega
  rw [newW_eq, newH_eq, rotDest]
  split_ifs <;> simp_all

theorem rotDest_index {angle : BitVec 16} (hangle : angle ∈ [(0 : BitVec 16), 90, 180, 270])
    (w h x y : Nat) :
    (rotDest angle w h x y).2 * newW angle w h + (rotDest angle w h x y).1 =
      if angle = 0 then y * w + x
      else if angle = 90 then x * h + (h - 1 - y)
      else if angle = 180 then (h - 1 - y) * w + (w - 1 - x)
      else (w - 1 - x) * h + y := by
  simp only [List.mem_cons, List.not_mem_nil, or_false] at hangle
  obtain rfl | rfl | rfl | rfl := hangle <;> rfl

theorem rotSource_rotDest (angle : BitVec 16) {x y : Nat} (hx : x < w) (hy : y < h) :
    rotSource angle w h (rotDest angle w h x y).1 (rotDest angle w h x y).2 = (x, y) := by
  have hx' : w - 1 - (w - 1 - x) = x := by omega
  have hy' : h - 1 - (h - 1 - y) = y := by omega
  unfold rotSource rotDest
  split_ifs <;> simp only [hx', hy']

end

/-- ROTATE's move to the destination pixel `p` (column, row). -/
def Job.rotateMove (j : Job) (angle : BitVec 16) (p : Nat × Nat) : Move where
  src := j.src + 2 * ((rotSource angle j.uw j.uh p.1 p.2).2 * j.uw +
    (rotSource angle j.uw j.uh p.1 p.2).1)
  dst := j.dst + 2 * (p.2 * newW angle j.uw j.uh + p.1)

/-- ROTATE's moves, in order. -/
def Job.rotateMoves (j : Job) (angle : BitVec 16) : List Move :=
  (bufferPixels (newW angle j.uw j.uh) (newH angle j.uw j.uh)).map (j.rotateMove angle)

section
variable {j : Job} {angle : BitVec 16}

theorem opsRotate_eq (angle : BitVec 16) (j : Job) :
    opsRotate angle j = (j.rotateMoves angle).map fun m => .rotS m.src m.dst := by
  simp only [opsRotate, Job.rotateMoves, bufferPixels, List.map_flatMap, List.map_map]
  rfl

theorem Op.apply_rotS (src dst : Nat) (s : State) :
    Op.apply (.rotS src dst) s = s.movePixel .scr none ⟨src, dst⟩ :=
  (if_neg (by simp)).symm

/-- ROTATE's operations are its moves. -/
theorem foldl_opsRotate (angle : BitVec 16) (j : Job) (s : State) :
    (opsRotate angle j).foldl (fun s op => op.apply s) s =
      State.movePixels .scr none s (j.rotateMoves angle) := by
  simp only [opsRotate_eq, List.foldl_map, Op.apply_rotS]
  rfl

theorem pairwise_apart_rotateMoves :
    (j.rotateMoves angle).Pairwise fun m m' => apart m.dst m'.dst := by
  refine List.pairwise_map.2 ((bufferPixels_rowMajor _ _).imp_of_mem fun hp _ hpq => .inl ?_)
  have := pixelIndex_lt (mem_bufferPixels.1 hp).1 hpq
  simp only [Job.rotateMove]
  omega

/-- Every move reads in the source buffer and writes in the destination buffer. -/
theorem rotateMoves_inside {m : Move} (hm : m ∈ j.rotateMoves angle) :
    (j.src ≤ m.src ∧ m.src + 2 ≤ j.src + 2 * (j.uw * j.uh)) ∧
      (j.dst ≤ m.dst ∧ m.dst + 2 ≤ j.dst + 2 * (j.uw * j.uh)) := by
  obtain ⟨p, hp, rfl⟩ := List.mem_map.1 hm
  obtain ⟨hx, hy⟩ := mem_bufferPixels.1 hp
  obtain ⟨hsx, hsy⟩ := rotSource_lt hx hy
  have hread := pixelIndex_lt_size hsx hsy
  have hwritten := pixelIndex_lt_size hx hy
  rw [(Nat.mul_comm _ _).trans (newH_mul_newW ..)] at hwritten
  simp only [Job.rotateMove]
  omega

/-- Where the buffers do not overlap, no move writes what another reads. -/
theorem rotateMoves_apart
    (hoverlap : ¬(j.uw * j.uh > 0 ∧ j.src < j.dst + 2 * j.uw * j.uh ∧
      j.dst < j.src + 2 * j.uw * j.uh)) :
    ∀ m ∈ j.rotateMoves angle, ∀ m' ∈ j.rotateMoves angle, apart m.src m'.dst := by
  intro m hm m' hm'
  have hread := (rotateMoves_inside hm).1
  have hwritten := (rotateMoves_inside hm').2
  rw [Nat.mul_assoc] at hoverlap
  omega

theorem mem_rotateMoves {x y : Nat} (hx : x < j.uw) (hy : y < j.uh) :
    ⟨j.src + 2 * (y * j.uw + x), j.dst + 2 * ((rotDest angle j.uw j.uh x y).2 *
      newW angle j.uw j.uh + (rotDest angle j.uw j.uh x y).1)⟩ ∈ j.rotateMoves angle := by
  refine List.mem_map.2 ⟨rotDest angle j.uw j.uh x y,
    mem_bufferPixels.2 (rotDest_lt angle hx hy), ?_⟩
  rw [Job.rotateMove, rotSource_rotDest angle hx hy]

/-- After ROTATE's moves each source pixel stands at its place in the destination. -/
theorem State.sPix_rotateMoves (s : State) (j : Job) {x y : Nat}
    (hangle : angle ∈ [(0 : BitVec 16), 90, 180, 270])
    (hoverlap : ¬(j.uw * j.uh > 0 ∧ j.src < j.dst + 2 * j.uw * j.uh ∧
      j.dst < j.src + 2 * j.uw * j.uh))
    (hx : x < j.uw) (hy : y < j.uh) :
    (State.movePixels .scr none s (j.rotateMoves angle)).sPix (j.dst + 2 *
      (if angle = 0 then y * j.uw + x
      else if angle = 90 then x * j.uh + (j.uh - 1 - y)
      else if angle = 180 then (j.uh - 1 - y) * j.uw + (j.uw - 1 - x)
      else (j.uw - 1 - x) * j.uh + y)) = s.sPix (j.src + 2 * (y * j.uw + x)) := by
  rw [← rotDest_index hangle]
  exact (State.pixelAt_movePixels_dst pairwise_apart_rotateMoves
    (.inr (rotateMoves_apart hoverlap)) (mem_rotateMoves hx hy)).trans (if_neg nofun)

theorem State.byteAt_rotateMoves_outside (s : State) (j : Job) (angle : BitVec 16) {a : Nat}
    (h : a < j.dst ∨ j.dst + 2 * j.uw * j.uh ≤ a) :
    (State.movePixels .scr none s (j.rotateMoves angle)).byteAt .scr a = s.byteAt .scr a := by
  rw [Nat.mul_assoc] at h
  refine State.byteAt_movePixels_outside fun m hm => ?_
  have hwritten := (rotateMoves_inside hm).2
  omega

end

/-- Accepted and left to the engine alone, ROTATE makes its moves and writes RESULT1. -/
theorem State.engineRun_rotate {s : State} {j : Job} (hs : s.acceptsCommands)
    (angle : BitVec 16) (hj : s.jobOf (.rotate angle) = j) :
    ∃ n ≤ 2 * (j.uw * j.uh) + 1, ∃ m : Memory,
      State.movePixels .scr none s (j.rotateMoves angle) = { s with scr := m } ∧
      (s.accept (.rotate angle)).engineRun n =
        { s with scr := m, result1 := rotateResult angle j } := by
  subst hj
  obtain ⟨n, hn, m, hm, hrun⟩ := State.engineRun_moves (s := s) (i := .rotate angle)
    (ops := opsRotate angle (s.jobOf (.rotate angle))) rfl (by simp [opsRotate_eq])
    (foldl_opsRotate angle (s.jobOf (.rotate angle)) s)
  rw [length_opsRotate, newH_mul_newW] at hn
  refine ⟨n, hn, m, hm, hrun.trans ?_⟩
  rw [State.finish_rotate rfl, ← hs.2]
  rfl

/-- Settles O23: the moves land apart and away from the source, so each pixel arrives. -/
theorem rotateTurnsBuffer : Obligations.RotateTurnsBuffer := by
  rintro s angle w h src dst hs rfl rfl rfl rfl hangle hsrc hdst hsrcFits hdstFits hoverlap
  refine ⟨(rotateArgumentCheck s angle hs).trans (if_neg ?_), ?_⟩
  · simp only [not_or]
    exact ⟨not_not.2 hangle, by omega, by omega, hoverlap⟩
  obtain ⟨n, hn, m, hm, hrun⟩ := State.engineRun_rotate hs angle rfl
  refine ⟨n, hn, m, _, hrun, fun x y hx hy => ?_, fun a ha => ?_⟩
  · rw [← hm]
    exact s.sPix_rotateMoves (s.jobOf (.rotate angle)) hangle hoverlap hx hy
  · rw [← hm]
    exact s.byteAt_rotateMoves_outside (s.jobOf (.rotate angle)) angle ha

end Sys2Proof.Machine

/-! ### The CTRL actions and the clear (45_lifecycle) -/

namespace Sys2Proof.Machine

variable {s : State}

/-! #### The configuration check (R401) -/

/-- Some signal other than BL has no pad (45_lifecycle R401). -/
theorem pinMissing_iff {pins : Vector Byte 25} : pinMissing pins = true ↔
    ∃ i : Fin 25, i ≠ sigBL ∧ pins[i] = unassigned := by
  simp [pinMissing]

/-- The resolution register reads 0 where both of its fields are 0. -/
theorem resWord_eq_zero_iff {w h : BitVec 16} : (h ++ w : Word) = 0 ↔ w = 0 ∧ h = 0 := by
  constructor
  · intro hz
    have hw : (h ++ w : Word).extractLsb' 0 16 = w := BitVec.extractLsb'_append_eq_right
    have hh : (h ++ w : Word).extractLsb' 16 16 = h := BitVec.extractLsb'_append_eq_left
    rw [hz] at hw hh
    exact ⟨hw.symm, hh.symm⟩
  · rintro ⟨rfl, rfl⟩
    rfl

theorem State.configInvalid_iff : s.configInvalid = true ↔
    (s.resW = 0 ∧ s.resH = 0) ∨ pinMissing s.pin = true ∨ pinShared s.pin = true := by
  rw [State.configInvalid, Bool.or_eq_true, Bool.or_eq_true, decide_eq_true_iff, or_assoc]

theorem State.configInvalid_false_iff : s.configInvalid = false ↔
    ¬(s.resW = 0 ∧ s.resH = 0) ∧ pinMissing s.pin = false ∧ pinShared s.pin = false := by
  rw [← Bool.not_eq_true, State.configInvalid_iff, not_or, not_or, Bool.not_eq_true,
    Bool.not_eq_true]

/-- Settles O44, case by case of the check. -/
theorem configInvalidExactly : Obligations.ConfigInvalidExactly := by
  intro s
  rw [State.configInvalid_iff, resWord_eq_zero_iff, pinMissing_iff, pinShared_iff]
  refine or_congr_right (or_congr_right (exists₂_congr fun i j => ?_))
  exact and_congr_right fun _ => and_congr_right fun hij => by rw [hij]; rfl

/-! #### The actions: their checks in order, then acceptance -/

/-- Outside UNINIT and STOPPED is INITIALIZING or RUNNING. -/
theorem DriverState.in_use_iff {d : DriverState} :
    (d = .initializing ∨ d = .running) ↔ ¬(d = .uninit ∨ d = .stopped) := by
  cases d <;> decide

/-- Settles O43: STATE, then the configuration. -/
theorem initAction : Obligations.InitAction := by
  refine fun s rsv => ⟨fun hd => ?_, fun hd hc => ?_, fun hd hc => ?_⟩
  · exact if_pos (DriverState.in_use_iff.1 hd)
  · exact (if_neg (not_not.2 hd)).trans (if_pos hc)
  · exact (if_neg (not_not.2 hd)).trans (if_neg (Bool.eq_false_iff.1 hc))

/-- Settles O45: STATE, then BUSY. -/
theorem runAction : Obligations.RunAction := by
  refine fun s rsv => ⟨fun hd => ?_, fun hd he => ?_, fun hd he => ?_⟩
  · exact if_pos hd
  · exact (if_neg (not_not.2 hd)).trans (if_pos he)
  · exact (if_neg (not_not.2 hd)).trans (if_neg (not_not.2 he))

/-- Settles O46: STATE, then BUSY; the FB list left is empty, so each of its bytes is a draw. -/
theorem deinitAction : Obligations.DeinitAction := by
  refine fun s rsv => ⟨fun hd => ?_, fun hd hj => ?_, fun hd hj => ?_⟩
  · exact if_pos fun huse => DriverState.in_use_iff.1 huse hd
  · exact (if_neg (not_not.2 hd)).trans (if_pos (Engine.busy_iff.2 hj))
  · exact ⟨_, (if_neg (not_not.2 hd)).trans (if_neg fun hb => hj (Engine.busy_iff.1 hb)), rfl,
      fun _ => rfl, State.scanTurn_stopped nofun⟩

/-! #### The clear (R405) -/

/-- The first `n` pixels the clear of a buffer of width `W` writes, in order. -/
def clearPoints (W n : Nat) : List (Int × Int) :=
  (List.range n).map fun k => (((k % W : Nat) : Int), ((k / W : Nat) : Int))

theorem clearPoints_succ (W n : Nat) :
    clearPoints W (n + 1) =
      clearPoints W n ++ [(((n % W : Nat) : Int), ((n / W : Nat) : Int))] := by
  simp [clearPoints, List.range_succ]

/-- The clear writes inside the buffer. -/
theorem clearPoints_inside {W H : Nat} : ∀ p ∈ clearPoints W (W * H), inb W H p.1 p.2 := by
  intro p hp
  obtain ⟨k, hk, rfl⟩ := List.mem_map.1 hp
  exact inb_clear (List.mem_range.1 hk)

/-- The clear reaches every pixel of the buffer: (x, y) is the one with index `y*W + x`. -/
theorem mem_clearPoints {W H : Nat} {x y : Int} (h : inb W H x y) :
    (x, y) ∈ clearPoints W (W * H) := by
  obtain ⟨⟨hx0, hx⟩, hy0, hy⟩ := h
  lift x to Nat using hx0
  lift y to Nat using hy0
  have hxW : x < W := Int.ofNat_lt.1 hx
  have hcol : (y * W + x) % W = x := by
    rw [Nat.mul_add_mod_self_right, Nat.mod_eq_of_lt hxW]
  have hrow : (y * W + x) / W = y := by
    rw [Nat.add_comm, Nat.add_mul_div_right x y (Nat.zero_lt_of_lt hxW), Nat.div_eq_of_lt hxW,
      Nat.zero_add]
  have hlt : y * W + x < W * H := pixelIndex_lt_size hxW (Int.ofNat_lt.1 hy)
  refine List.mem_map.2 ⟨y * W + x, List.mem_range.2 hlt, ?_⟩
  rw [hcol, hrow]

/-- The state with the first `n` pixels of the clear painted 0. -/
def State.zeroed (s : State) (n : Nat) : State :=
  (paintOps 0 (clearPoints s.width n)).foldl (fun s op => op.apply s) s

theorem State.zeroed_succ (s : State) (n : Nat) :
    s.zeroed (n + 1) =
      (s.zeroed n).setPix ((n % s.width : Nat) : Int) ((n / s.width : Nat) : Int) 0 := by
  rw [State.zeroed, clearPoints_succ, paintOps, List.map_append, List.foldl_append]
  rfl

/-- The clear writes FB alone. -/
theorem State.zeroed_eq (s : State) (n : Nat) : s.zeroed n = { s with fb := (s.zeroed n).fb } := by
  induction n with
  | zero => rfl
  | succ n ih => rw [State.zeroed_succ, ih]; rfl

/-- After `n` turns of the clear its first `n` pixels are 0. -/
theorem State.engineRun_clearing (hs : s.eng = .clearing 0) {n : Nat}
    (hn : n ≤ s.width * s.height) :
    s.engineRun n = { s with fb := (s.zeroed n).fb, eng := .clearing n } := by
  induction n with
  | zero => rw [← hs]; rfl
  | succ n ih =>
    rw [State.engineRun_add n 1 s, ih (Nat.le_of_succ_le hn), State.zeroed_succ, s.zeroed_eq n]
    exact State.engineTurn_clear (s := { s with fb := _, eng := .clearing n }) rfl hn

/-- Settles O26: the clear paints every pixel of the buffer 0, then ends. -/
theorem clearZeroesStore : Obligations.ClearZeroesStore := by
  intro s hs
  obtain ⟨hpix, habove, -⟩ :=
    paint_foldl 0 (clearPoints s.width (s.width * s.height)) s clearPoints_inside
  have hzeroed := s.zeroed_eq (s.width * s.height)
  rw [State.zeroed] at hzeroed
  rw [hzeroed] at hpix habove
  refine ⟨_, ?_, fun x y hxy => (hpix x y hxy).trans (if_pos (mem_clearPoints hxy)), habove⟩
  rw [State.engineRun_add, State.engineRun_clearing hs le_rfl]
  exact State.engineTurn_cleared (s := { s with fb := _, eng := .clearing (s.width * s.height) })
    rfl (lt_irrefl (s.width * s.height))

end Sys2Proof.Machine

/-! ### ENG and STATE in step, who emits, who writes FB (45_lifecycle R423) -/

namespace Sys2Proof.Machine

variable {s t : State}

/-! #### ENG and STATE -/

theorem ExecEffect.lifecycleOk {i : Instr} (h : ExecEffect s i t) (hs : s.lifecycleOk) :
    t.lifecycleOk := by
  cases h with
  | rejected => exact hs
  | accepted _ _ hr =>
    exact ⟨(absurd · (DriverState.in_use_iff.1 (.inr hr))), nofun, fun _ => hr⟩
  | init => exact ⟨nofun, fun _ => rfl, nofun⟩
  | run _ _ he => exact ⟨nofun, by simp [he, Engine.isClearing], fun _ => rfl⟩
  | deinit => exact ⟨fun _ => rfl, nofun, nofun⟩

theorem WriteEffect.lifecycleOk (h : WriteEffect s t) (hs : s.lifecycleOk) : t.lifecycleOk := by
  cases h with
  | action i t h => exact h.lifecycleOk hs
  | _ => exact hs

theorem HostEffect.lifecycleOk (h : HostEffect s t) (hs : s.lifecycleOk) : t.lifecycleOk := by
  obtain ⟨a, n, v, rest, -, hw⟩ | hframe := h.write_or_frame
  · exact (State.write_cases hw).lifecycleOk hs
  · rw [hframe]; exact hs

/-- A clear goes on clearing, a command goes on executing, or ENG becomes Idle. -/
theorem EngineEffect.lifecycleOk (h : EngineEffect s t) (hs : s.lifecycleOk) : t.lifecycleOk := by
  obtain ⟨hidle, hclear, hbusy⟩ := hs
  cases h with
  | idle => exact ⟨hidle, hclear, hbusy⟩
  | clear n hn =>
    have hd := hclear (by rw [hn]; rfl)
    exact ⟨(absurd · (DriverState.in_use_iff.1 (.inl hd))), fun _ => hd, nofun⟩
  | cleared => exact ⟨fun _ => rfl, nofun, nofun⟩
  | perform j op hj =>
    have hd := hbusy (by rw [hj]; rfl)
    obtain ⟨j', heng, -⟩ := s.perform_eng j op
    rw [State.perform_frame, heng]
    exact ⟨(absurd · (DriverState.in_use_iff.1 (.inr hd))), nofun, fun _ => hd⟩
  | finish j => rw [State.finish_frame]; exact ⟨fun _ => rfl, nofun, nofun⟩

theorem step_keeps_lifecycleOk (h : step s = .next t) (hs : s.lifecycleOk) : t.lifecycleOk := by
  have hturn : s.turnTaken.lifecycleOk := by rw [s.turnTaken_eq]; exact hs
  obtain ⟨-, he⟩ | ⟨-, rfl⟩ | ⟨-, rfl⟩ | ⟨-, rfl⟩ := step_cases h
  · exact he.lifecycleOk hturn
  · rw [State.scanTurn_frame]; exact hturn
  · exact s.turnTaken.engineTurn_cases.lifecycleOk hturn
  · exact ⟨fun _ => rfl, nofun, nofun⟩

/-! #### Who emits -/

/-- Only a scan step in RUNNING emits. -/
theorem step_emitted (h : step s = .next t) :
    t.emitted = s.emitted ∨ s.nextAgent = .scan ∧ s.drv = .running := by
  rw [← s.turnTaken_emitted, ← s.turnTaken_drv]
  obtain ⟨-, he⟩ | ⟨hscan, rfl⟩ | ⟨-, rfl⟩ | ⟨-, rfl⟩ := step_cases h
  · obtain ⟨-, -, -, hem, -⟩ := State.beyondHost_eq_iff.1 he.beyondHost_eq
    exact .inl hem
  · by_cases hd : s.turnTaken.drv = .running
    · exact .inr ⟨hscan, hd⟩
    · exact .inl (by rw [State.scanTurn_stopped hd])
  · exact .inl (by rw [s.turnTaken.engineTurn_cases.frame])
  · exact .inl rfl

/-! #### Who writes FB -/

/-- Short of DEINIT, the host writes FB in RUNNING only, through its window (20_memory R108). -/
theorem WriteEffect.byteAt_fb {a : Nat} (h : WriteEffect s t) (he : t.fbEpoch = s.fbEpoch) :
    t.byteAt .fb a = s.byteAt .fb a ∨ s.drv = .running := by
  cases h with
  | action i t h => exact .inl (h.byteAt_fb he)
  | fb off n v hd => exact .inr hd
  | _ => exact .inl rfl

theorem HostEffect.byteAt_fb {a : Nat} (h : HostEffect s t) (he : t.fbEpoch = s.fbEpoch) :
    t.byteAt .fb a = s.byteAt .fb a ∨ s.drv = .running := by
  obtain ⟨a, n, v, rest, -, hw⟩ | hframe := h.write_or_frame
  · exact (State.write_cases hw).byteAt_fb he
  · rw [hframe]; exact .inl rfl

/-- The engine writes FB in the clear or for a command. -/
theorem EngineEffect.byteAt_fb {a : Nat} (h : EngineEffect s t) :
    t.byteAt .fb a = s.byteAt .fb a ∨ s.eng.isClearing = true ∨ s.eng.busy = true := by
  cases h with
  | idle => exact .inl rfl
  | clear n hn => exact .inr (.inl (Engine.isClearing_iff.2 ⟨n, hn⟩))
  | cleared => exact .inl rfl
  | perform j op hj => exact .inr (.inr (Engine.busy_iff.2 ⟨j, hj⟩))
  | finish j => rw [State.finish_frame]; exact .inl rfl

theorem step_byteAt_fb {a : Nat} (hs : s.lifecycleOk) (h : step s = .next t)
    (he : t.fbEpoch = s.fbEpoch) (hne : t.byteAt .fb a ≠ s.byteAt .fb a) :
    (s.drv = .initializing ∧ s.nextAgent = .engine ∧ s.eng.isClearing = true) ∨
      (s.drv = .running ∧ (s.nextAgent = .engine ∨ s.nextAgent = .host)) := by
  have hturn : s.turnTaken.fbEpoch = s.fbEpoch ∧
      s.turnTaken.byteAt .fb a = s.byteAt .fb a := by
    rw [s.turnTaken_eq]; exact ⟨rfl, rfl⟩
  obtain ⟨hepoch, hbyte⟩ := hturn
  rw [← hepoch] at he
  rw [← hbyte] at hne
  rw [← s.turnTaken_drv, ← s.turnTaken_eng]
  obtain ⟨hhost, heff⟩ | ⟨-, rfl⟩ | ⟨hengine, rfl⟩ | ⟨-, rfl⟩ := step_cases h
  · exact .inr ⟨(heff.byteAt_fb he).resolve_left hne, .inr hhost⟩
  · rw [State.scanTurn_frame] at hne
    exact absurd rfl hne
  · obtain ⟨-, hclear, hbusy⟩ := hs
    rw [← s.turnTaken_drv, ← s.turnTaken_eng] at hclear hbusy
    obtain hc | hb := s.turnTaken.engineTurn_cases.byteAt_fb.resolve_left hne
    · exact .inl ⟨hclear hc, hengine, hc⟩
    · exact .inr ⟨hbusy hb, .inl hengine⟩
  · exact absurd he (Nat.succ_ne_self _)

/-- Settles O59: a scan turn in RUNNING emits its tuple and no other turn emits; the rest are the
lemmas above. -/
theorem lifecycleInvariant : Obligations.LifecycleInvariant := by
  refine fun s t hs h => ⟨step_keeps_lifecycleOk h hs, (step_emitted h).resolve_left,
    fun hscan hd => ?_, fun ⟨a, he, hne⟩ => step_byteAt_fb hs h he hne⟩
  cases h.symm.trans (step_scan hscan)
  rw [State.scanTurn_emitted (s.turnTaken_drv.trans hd), State.turnTaken_periodOut,
    State.turnTaken_emitted]

end Sys2Proof.Machine

/-! ### Every step keeps the invariant of the block -/

namespace Sys2Proof.Machine

variable {s t : State}

/-! #### Reset, the turn taken and the scan -/

theorem State.inv_resetOf {b : Params} (hb : b.legal) : (State.resetOf b).Inv := by
  have ⟨_, _, _, hhsw, hvsw⟩ := hb
  have hpin : ∀ i : Fin 25, (Vector.replicate 25 unassigned)[i] = unassigned := by simp
  exact {
    build := hb
    fbWf := List.Pairwise.nil
    scrWf := List.Pairwise.nil
    fbInside := nofun
    scrInside := nofun
    res := .inl ⟨rfl, rfl⟩
    hsync := hhsw
    vsync := hvsw
    pins := fun i => .inl (hpin i)
    routes := absurd rfl
    unrouted := fun _ => rfl
    locked := nofun
    lifecycle := ⟨fun _ => rfl, nofun, nofun⟩
    scan := nofun
    panelHeld := nofun
    panelIdle := fun _ => rfl
    clear := nofun
    job := nofun }

theorem State.inv_resetTurn (h : s.Inv) : s.resetTurn.Inv :=
  { State.inv_resetOf h.build with }

theorem State.inv_turnTaken (h : s.Inv) : s.turnTaken.Inv := by
  rw [s.turnTaken_eq]
  exact { h with }

/-- The next position of the scan is in its frame (41_timing_generator R236). -/
theorem State.nextPos_lt (hh : s.hcnt < s.htotal) (hv : s.vcnt < s.vtotal) :
    s.nextPos.1 < s.htotal ∧ s.nextPos.2 < s.vtotal := by
  unfold State.nextPos
  split
  · refine ⟨by omega, ?_⟩
    dsimp only
    split <;> omega
  · exact ⟨by dsimp only; omega, hv⟩

theorem State.inv_scanTurn (h : s.Inv) : s.scanTurn.Inv := by
  by_cases hd : s.drv = .running
  · obtain ⟨hh, hv⟩ := h.scan hd
    rw [State.scanTurn_running hd]
    exact { h with
      scan := fun _ => State.nextPos_lt hh hv
      panelHeld := nofun
      panelIdle := absurd hd }
  · rwa [State.scanTurn_stopped hd]

/-! #### The host -/

theorem State.Inv.eng_idle (h : s.Inv) (hd : s.drv = .uninit ∨ s.drv = .stopped) :
    s.eng = .idle := by
  obtain ⟨hidle, -, -⟩ := h.lifecycle
  exact hidle hd

/-- The Framebuffer Store fits in FB while the block is in use. -/
theorem State.Inv.store_fits (h : s.Inv) (hd : s.drv = .initializing ∨ s.drv = .running) :
    s.storeBytes ≤ s.build.fbBytes := by
  obtain ⟨-, -, -, hfit⟩ := h.locked hd
  exact hfit

/-- A job just accepted has performed nothing and holds nothing. -/
theorem State.jobOf_ok {i : Instr} (hp : i.port = .cmd)
    (ha : (s.jobOf i).argsInvalid s.build.scrBytes = false) :
    (s.jobOf i).Ok s.width s.height s.build.scrBytes where
  raster := hp
  args := ha
  progress := Nat.zero_le _
  heldGet := fun _ => ⟨nofun, nofun⟩
  heldOther := nofun

/-- A state that executes a job as it should. -/
theorem State.inv_exec {j : Job} (h : s.Inv) (hd : s.drv = .running)
    (hj : j.Ok s.width s.height s.build.scrBytes) : { s with eng := .exec j }.Inv :=
  { h with
    lifecycle := ⟨(absurd · (DriverState.in_use_iff.1 (.inr hd))), nofun, fun _ => hd⟩
    clear := nofun
    job := fun _ he => Engine.exec.inj he ▸ hj }

theorem State.inv_engIdle (h : s.Inv) : { s with eng := .idle }.Inv :=
  { h with
    lifecycle := ⟨fun _ => rfl, nofun, nofun⟩
    clear := nofun
    job := nofun }

theorem ExecEffect.inv {i : Instr} (h : ExecEffect s i t) (hs : s.Inv) : t.Inv := by
  have hlife := h.lifecycleOk hs.lifecycle
  cases h with
  | rejected _ f => exact State.inv_raise hs f
  | accepted _ hp hr _ ha => exact State.inv_exec hs hr (State.jobOf_ok hp ha)
  | init rsv hd hc =>
    obtain ⟨hres, hmissing, hshared⟩ := State.configInvalid_false_iff.1 hc
    have hstopped : s.drv ≠ .running := fun hr => DriverState.in_use_iff.1 (.inr hr) hd
    exact { hs with
      routes := fun _ => ⟨hs.pins, hmissing, hshared⟩
      unrouted := nofun
      locked := fun _ => ⟨rfl, hs.res.resolve_left hres⟩
      lifecycle := hlife
      scan := nofun
      panelHeld := nofun
      panelIdle := fun _ => hs.panelIdle hstopped
      clear := fun n hn => Engine.clearing.inj hn ▸ Nat.zero_le _
      job := nofun }
  | run rsv hd he =>
    exact { hs with
      routes := fun _ => hs.routes (by simp [hd])
      unrouted := nofun
      locked := fun _ => hs.locked (.inl hd)
      lifecycle := hlife
      scan := fun _ => ⟨State.htotal_pos hs.hsync, State.vtotal_pos hs.vsync⟩
      panelHeld := fun _ _ => ⟨rfl, rfl⟩
      panelIdle := absurd rfl }
  | deinit rsv hd =>
    exact { hs with
      fbWf := List.Pairwise.nil
      fbInside := nofun
      routes := fun _ => hs.routes fun hu => DriverState.in_use_iff.1 hd (.inl hu)
      unrouted := nofun
      locked := nofun
      lifecycle := hlife
      scan := nofun
      panelHeld := nofun
      panelIdle := fun _ => rfl
      clear := nofun
      job := nofun }

/-- A legal RES value gives a legal resolution, and RES is written only where ENG is Idle. -/
theorem State.inv_setRes {v : Word} (h : s.Inv) (hd : s.drv = .uninit ∨ s.drv = .stopped)
    (hv : resLegal s.build.fbBytes v) : { s with resW := lowHalf v, resH := highHalf v }.Inv :=
  { h with
    res := .inr hv
    locked := fun huse => absurd hd (DriverState.in_use_iff.1 huse)
    scan := fun hr => absurd hd (DriverState.in_use_iff.1 (.inr hr))
    clear := fun _ hn => nomatch (h.eng_idle hd).symm.trans hn
    job := fun _ hj => nomatch (h.eng_idle hd).symm.trans hj }

theorem padsLegal_set {npads : Nat} {pins : Vector Byte 25} {v : Word} (h : padsLegal npads pins)
    (i : Fin 25) (hv : pinLegal npads v) : padsLegal npads (pins.set i (lowByte v)) := by
  intro k
  by_cases hik : i = k
  · subst hik
    simpa [or_comm] using hv
  · have hkept : (pins.set i (lowByte v))[k] = pins[k] := by
      simp [Fin.val_inj, hik]
    rw [hkept]
    exact h k

theorem State.inv_setPin {v : Word} (h : s.Inv) (hd : s.drv = .uninit ∨ s.drv = .stopped)
    (i : Fin 25) (hv : pinLegal s.build.npads v) :
    { s with pin := s.pin.set i (lowByte v) }.Inv :=
  { h with
    pins := padsLegal_set h.pins i hv
    locked := fun huse => absurd hd (DriverState.in_use_iff.1 huse) }

theorem WriteEffect.inv (h : WriteEffect s t) (hs : s.Inv) : t.Inv := by
  cases h with
  | rejected f => exact State.inv_raise hs f
  | nothing => exact hs
  | action i t h => exact h.inv hs
  | res v hd hv => exact State.inv_setRes hs hd hv
  | pin i v hd hv => exact State.inv_setPin hs hd i hv
  | hsw v hd hv => exact { hs with hsync := hv, scan := (absurd · hd) }
  | vsw v hd hv => exact { hs with vsync := hv, scan := (absurd · hd) }
  | hbp v hd | hfp v hd | vbp v hd | vfp v hd => exact { hs with scan := (absurd · hd) }
  | fb off n v hd hb =>
    refine State.inv_memWrite_fb hs ?_
    rw [Size.dataBytes_length]
    exact hb.trans (hs.store_fits (.inr hd))
  | scr off n v hb =>
    refine State.inv_memWrite_scr hs ?_
    rwa [Size.dataBytes_length]
  | _ => exact { hs with }

theorem HostEffect.inv (h : HostEffect s t) (hs : s.Inv) : t.Inv := by
  obtain ⟨a, n, v, rest, -, hw⟩ | hframe := h.write_or_frame
  · exact (State.write_cases hw).inv { hs with }
  · rw [hframe]
    exact { hs with }

/-! #### The engine -/

/-- `SetPix` inside the buffer keeps the invariant where the store fits in FB. -/
theorem State.inv_setPix {x y : Int} (h : s.Inv) (hd : s.drv = .initializing ∨ s.drv = .running)
    (hin : inb s.width s.height x y) (v : Pixel) : (s.setPix x y v).Inv :=
  State.inv_memWrite_fb h ((pixOff_lt hin).trans (h.store_fits hd))

/-- The command an operation is of: a GetPix is PIXEL_GET's, a RotS one of ROTATE's moves. -/
def Op.isOf (j : Job) : Op → Prop
  | .getPix .. => isPixelGet j.cmd = true
  | .setPix .. | .copyS .. => isPixelGet j.cmd = false
  | .rotS src dst => ∃ angle, j.cmd = .rotate angle ∧ ⟨src, dst⟩ ∈ j.rotateMoves angle

theorem Job.isOf_of_mem_ops {j : Job} {W H : Nat} {op : Op} (hop : op ∈ j.ops W H) :
    op.isOf j := by
  cases hcmd : j.cmd with
  | fill color | fillRect color | rect f color | hline color | vline color =>
    rw [Job.ops_area (congrArg areaColor hcmd)] at hop
    obtain ⟨p, -, rfl⟩ := List.mem_map.1 hop
    exact congrArg isPixelGet hcmd
  | line color =>
    simp only [Job.ops, hcmd, opsLine] at hop
    obtain ⟨p, -, rfl⟩ := List.mem_map.1 hop
    exact congrArg isPixelGet hcmd
  | pixelSet color =>
    simp only [Job.ops, hcmd, opsPixelSet_eq] at hop
    obtain ⟨p, -, rfl⟩ := List.mem_map.1 hop
    exact congrArg isPixelGet hcmd
  | pixelGet imm =>
    simp only [Job.ops, hcmd, opsPixelGet] at hop
    split at hop
    · rw [List.mem_singleton.1 hop]
      exact congrArg isPixelGet hcmd
    · cases hop
  | blit keyed imm =>
    simp only [Job.ops, hcmd, opsBlit_eq] at hop
    obtain ⟨p, -, rfl⟩ := List.mem_map.1 hop
    exact congrArg isPixelGet hcmd
  | rotate angle =>
    simp only [Job.ops, hcmd, opsRotate_eq] at hop
    obtain ⟨m, hm, rfl⟩ := List.mem_map.1 hop
    exact ⟨angle, hcmd, hm⟩
  | init | run | deinit =>
    simp only [Job.ops, hcmd] at hop
    cases hop

/-- PIXEL_GET has at most one operation, so it performs it at progress 0. -/
theorem Job.k_eq_zero_of_pixelGet {j : Job} {W H : Nat} (hg : isPixelGet j.cmd = true)
    (hk : j.k < (j.ops W H).length) : j.k = 0 := by
  obtain ⟨imm, hcmd⟩ : ∃ imm, j.cmd = .pixelGet imm := by
    cases hcmd : j.cmd with
    | pixelGet imm => exact ⟨imm, rfl⟩
    | _ => rw [hcmd] at hg; cases hg
  by_cases hin : inb W H j.x j.y
  · rw [Job.ops_pixelGet_inside hcmd hin] at hk
    exact Nat.lt_one_iff.1 hk
  · rw [Job.ops_pixelGet_outside hcmd hin] at hk
    cases hk

/-- With valid arguments ROTATE writes inside SCR (44_raster_blit_rotate R376). -/
theorem Job.rotS_inside {j : Job} {scrBytes src dst : Nat} (h : (Op.rotS src dst).isOf j)
    (hargs : j.argsInvalid scrBytes = false) : dst + 2 ≤ scrBytes := by
  obtain ⟨angle, hcmd, hmove⟩ := h
  have hvalid : ¬rotateArgsInvalid angle j scrBytes = true := by
    rw [Bool.not_eq_true, ← hargs, Job.argsInvalid, hcmd]
  rw [rotateArgsInvalid_iff, Nat.mul_assoc] at hvalid
  have hfits : j.dst + 2 * (j.uw * j.uh) ≤ scrBytes :=
    not_lt.1 fun hover => hvalid (.inr (.inr (.inl (.inr hover))))
  obtain ⟨-, -, hwritten⟩ := rotateMoves_inside hmove
  exact hwritten.trans hfits

section
variable {j : Job} {op : Op} {W H scrBytes : Nat}

/-- After an operation other than GetPix the job stands before the next and holds nothing. -/
theorem Job.Ok.advance (hj : j.Ok W H scrBytes) (hg : isPixelGet j.cmd = false)
    (hop : (j.ops W H)[j.k]? = some op) :
    { j with k := j.k + 1, held := none }.Ok W H scrBytes where
  raster := hj.raster
  args := hj.args
  progress := (List.getElem?_eq_some_iff.1 hop).1
  heldGet := fun h => nomatch hg.symm.trans h
  heldOther := nofun

/-- Between its read and its write an operation holds the pixel read. -/
theorem Job.Ok.hold (hj : j.Ok W H scrBytes) (hg : isPixelGet j.cmd = false)
    (hop : (j.ops W H)[j.k]? = some op) (htwo : op.twoEvents = true) (v : Pixel) :
    { j with held := some v }.Ok W H scrBytes where
  raster := hj.raster
  args := hj.args
  progress := hj.progress
  heldGet := fun h => nomatch hg.symm.trans h
  heldOther := fun _ _ => ⟨op, hop, htwo⟩

/-- PIXEL_GET holds the pixel it has read until its result is written. -/
theorem Job.Ok.got (hj : j.Ok W H scrBytes) (hg : isPixelGet j.cmd = true)
    (hop : (j.ops W H)[j.k]? = some op) (v : Pixel) :
    { j with k := j.k + 1, held := some v }.Ok W H scrBytes := by
  have hk : j.k < (j.ops W H).length := (List.getElem?_eq_some_iff.1 hop).1
  exact {
    raster := hj.raster
    args := hj.args
    progress := hk
    heldGet := fun _ => ⟨fun _ => congrArg (· + 1) (Job.k_eq_zero_of_pixelGet hg hk), fun _ => rfl⟩
    heldOther := fun h => nomatch hg.symm.trans h }

end

/-- An event of the executing command keeps the invariant. -/
theorem State.inv_perform {j : Job} {op : Op} (h : s.Inv) (he : s.eng = .exec j)
    (hop : (j.ops s.width s.height)[j.k]? = some op) : (s.perform j op).Inv := by
  have hj := h.job j he
  obtain ⟨-, -, hbusy⟩ := h.lifecycle
  have hd : s.drv = .running := hbusy (Engine.busy_iff.2 ⟨j, he⟩)
  have hmem := List.mem_of_getElem? hop
  have hin := j.ops_inside _ _ op hmem
  have hof := Job.isOf_of_mem_ops hmem
  cases op with
  | setPix x y v =>
    exact State.inv_exec (State.inv_setPix h (.inr hd) hin v) hd (hj.advance hof hop)
  | getPix x y => exact State.inv_exec h hd (hj.got hof hop _)
  | copyS src x y skip =>
    simp only [State.perform]
    split
    · exact State.inv_exec (State.inv_setPix h (.inr hd) hin _) hd (hj.advance hof hop)
    · split
      · exact State.inv_exec h hd (hj.advance hof hop)
      · exact State.inv_exec h hd (hj.hold hof hop rfl _)
  | rotS src dst =>
    have hg : isPixelGet j.cmd = false := by
      obtain ⟨angle, hcmd, -⟩ := hof
      rw [hcmd]; rfl
    simp only [State.perform]
    split
    · exact State.inv_exec (State.inv_memWrite_scr h (Job.rotS_inside hof hj.args)) hd
        (hj.advance hg hop)
    · exact State.inv_exec h hd (hj.hold hg hop rfl _)

theorem EngineEffect.inv (h : EngineEffect s t) (hs : s.Inv) : t.Inv := by
  have hlife := h.lifecycleOk hs.lifecycle
  cases h with
  | idle => exact hs
  | clear n he hn =>
    obtain ⟨-, hclear, -⟩ := hs.lifecycle
    have hd : s.drv = .initializing := hclear (Engine.isClearing_iff.2 ⟨n, he⟩)
    exact { State.inv_setPix hs (.inl hd) (inb_clear hn) 0 with
      lifecycle := hlife
      clear := fun m hm => Engine.clearing.inj hm ▸ hn
      job := nofun }
  | cleared => exact State.inv_engIdle hs
  | perform j op he hop => exact State.inv_perform hs he hop
  | finish j =>
    rw [State.finish_frame]
    exact { State.inv_engIdle hs with }

/-- Settles O58, agent by agent. -/
theorem stepKeepsInvariant : Obligations.StepKeepsInvariant := by
  intro s t hs h
  have hturn := State.inv_turnTaken hs
  obtain ⟨-, he⟩ | ⟨-, rfl⟩ | ⟨-, rfl⟩ | ⟨-, rfl⟩ := step_cases h
  · exact he.inv hturn
  · exact State.inv_scanTurn hturn
  · exact s.turnTaken.engineTurn_cases.inv hturn
  · exact State.inv_resetTurn hturn

end Sys2Proof.Machine

/-! ### The rgb565 conversion (46_color) -/

namespace Sys2Proof.Machine

/-! #### The fields of the converted value (R441), bits of COLOR_IN -/

theorem rgb565_red (c : BitVec 24) : (rgb565 c).extractLsb' 11 5 = c.extractLsb' 19 5 := by
  ext i hi
  interval_cases i <;> simp [rgb565]

theorem rgb565_green (c : BitVec 24) : (rgb565 c).extractLsb' 5 6 = c.extractLsb' 10 6 := by
  ext i hi
  interval_cases i <;> simp [rgb565]

theorem rgb565_blue (c : BitVec 24) : (rgb565 c).extractLsb' 0 5 = c.extractLsb' 3 5 := by
  ext i hi
  interval_cases i <;> simp [rgb565]

/-! #### Quantization (R443) -/

/-- The top bits of an 8-bit channel are its quotient by the weight of the lowest bit kept. -/
theorem toNat_topBits (x : BitVec 8) {k n : Nat} (h : k + n = 8) :
    (x.extractLsb' k n).toNat = x.toNat / 2 ^ k := by
  have hx : x.toNat < 2 ^ k * 2 ^ n := by rw [← Nat.pow_add, h]; exact x.isLt
  rw [BitVec.extractLsb'_toNat, Nat.shiftRight_eq_div_pow,
    Nat.mod_eq_of_lt (Nat.div_lt_of_lt_mul hx)]

/-- Settles O55: each field is its channel's top bits, and so the channel's quotient. -/
theorem rgb565KeepsTopBits : Obligations.Rgb565KeepsTopBits := by
  intro r g b
  have hr : (rgb565 (r ++ g ++ b)).extractLsb' 11 5 = r.extractLsb' 3 5 :=
    calc _ = (r ++ g ++ b).extractLsb' 19 5 := rgb565_red _
      _ = (r ++ g).extractLsb' 11 5 := BitVec.extractLsb'_append_eq_of_le (by decide)
      _ = _ := BitVec.extractLsb'_append_eq_of_le (by decide)
  have hg : (rgb565 (r ++ g ++ b)).extractLsb' 5 6 = g.extractLsb' 2 6 :=
    calc _ = (r ++ g ++ b).extractLsb' 10 6 := rgb565_green _
      _ = (r ++ g).extractLsb' 2 6 := BitVec.extractLsb'_append_eq_of_le (by decide)
      _ = _ := BitVec.extractLsb'_append_eq_of_add_le (by decide)
  have hb : (rgb565 (r ++ g ++ b)).extractLsb' 0 5 = b.extractLsb' 3 5 :=
    calc _ = (r ++ g ++ b).extractLsb' 3 5 := rgb565_blue _
      _ = _ := BitVec.extractLsb'_append_eq_of_add_le (by decide)
  have hr8 := toNat_topBits r (k := 3) (n := 5) rfl
  have hg4 := toNat_topBits g (k := 2) (n := 6) rfl
  have hb8 := toNat_topBits b (k := 3) (n := 5) rfl
  refine ⟨⟨hr, hg, hb⟩, ?_⟩
  simp only [hr, hg, hb, hr8, hg4, hb8]
  omega

end Sys2Proof.Machine

/-! ### A bus write, whatever FB and ERR hold -/

namespace Sys2Proof.Machine

variable {s : State}

/-- The state with another FB, another draw of its unwritten bytes and another ERR. -/
def State.withFbErr (s : State) (m : Memory) (e : Nat) (r : BitVec 6) : State :=
  { s with fb := m, fbEpoch := e, err := r }

/-- What a bus write other than to ERR can do, as a function of FB and ERR. -/
inductive WriteAct where
  | reject (f : ErrFlag)
  /-- every field but FB and ERR becomes that of `u` -/
  | set (u : State)
  | deinit
  | store (off : Nat) (bs : List Byte)

def WriteAct.apply : WriteAct → State → State
  | .reject f, s => s.raise f
  | .set u, s => u.withFbErr s.fb s.fbEpoch s.err
  | .deinit, s => { s.releaseFb with drv := .stopped, eng := .idle, panel := none }
  | .store off bs, s => s.memWrite .fb off bs

/-- `act` does one and the same thing at every state that differs from `s` in FB and ERR alone: its
checks read neither. -/
def Uniform (s : State) (act : State → Result) : Prop :=
  ∃ k : WriteAct, ∀ m e r, act (s.withFbErr m e r) = .next (k.apply (s.withFbErr m e r))

theorem Uniform.congr {act act' : State → Result}
    (heq : ∀ m e r, act' (s.withFbErr m e r) = act (s.withFbErr m e r)) (hu : Uniform s act) :
    Uniform s act' := by
  obtain ⟨k, hk⟩ := hu
  exact ⟨k, fun m e r => (heq m e r).trans (hk m e r)⟩

/-- A check that reads neither FB nor ERR. -/
theorem Uniform.ite {c : State → Prop} [DecidablePred c] {act act' : State → Result}
    (hc : ∀ m e r, c (s.withFbErr m e r) ↔ c s) (h : Uniform s act) (h' : Uniform s act') :
    Uniform s fun u => if c u then act u else act' u := by
  by_cases hs : c s
  · exact h.congr fun m e r => if_pos ((hc m e r).2 hs)
  · exact h'.congr fun m e r => if_neg (mt (hc m e r).1 hs)

theorem Uniform.raise (s : State) (f : ErrFlag) : Uniform s fun u => .next (u.raise f) :=
  ⟨.reject f, fun _ _ _ => rfl⟩

/-! #### The instructions -/

theorem Uniform.issue (i : Instr) (bad : Bool) : Uniform s (·.issue i bad) :=
  .ite (fun _ _ _ => .rfl) (.raise s .state) <|
    .ite (fun _ _ _ => .rfl) (.raise s .busy) <|
      .ite (fun _ _ _ => .rfl) (.raise s .arg) ⟨.set (s.accept i), fun _ _ _ => rfl⟩

theorem Uniform.exec (i : Instr) : Uniform s (Machine.exec i) := by
  by_cases hp : i.port = .cmd
  · exact (Uniform.issue i ((s.jobOf i).argsInvalid s.build.scrBytes)).congr
      fun m e r => exec_raster i (s.withFbErr m e r) hp
  · cases i with
    | init rsv =>
      exact .ite (fun _ _ _ => .rfl) (.raise s .state) <|
        .ite (fun _ _ _ => .rfl) (.raise s .cfg) <|
          ⟨.set { s with route := s.pin, drv := .initializing, eng := .clearing 0 },
            fun _ _ _ => rfl⟩
    | run rsv =>
      exact .ite (fun _ _ _ => .rfl) (.raise s .state) <|
        .ite (fun _ _ _ => .rfl) (.raise s .busy) <|
          ⟨.set { s with drv := .running, hcnt := 0, vcnt := 0, panel := none }, fun _ _ _ => rfl⟩
    | deinit rsv =>
      exact .ite (fun _ _ _ => .rfl) (.raise s .state) <|
        .ite (fun _ _ _ => .rfl) (.raise s .busy) ⟨.deinit, fun _ _ _ => rfl⟩
    | _ => exact absurd rfl hp

/-! #### The registers -/

theorem Uniform.writeCtrl (v : Word) : Uniform s (·.writeCtrl v) := by
  unfold State.writeCtrl
  cases decodeCtrl v with
  | instr i => exact Uniform.exec i
  | reject e =>
    cases e with
    | noAction => exact ⟨.set s, fun _ _ _ => rfl⟩
    | _ => exact .raise s .arg

theorem Uniform.writeCmd (c : Word) : Uniform s (·.writeCmd c) := by
  unfold State.writeCmd
  cases decodeCmd c with
  | instr i => exact Uniform.exec i
  | reject e =>
    exact .ite (fun _ _ _ => .rfl) (.raise s .state) <|
      .ite (fun _ _ _ => .rfl) (.raise s .busy) (.raise s .op)

/-- Every register but ERR itself. -/
theorem Uniform.storeReg {r : Reg} (v : Word) (hr : r ≠ .err) : Uniform s (·.storeReg r v) := by
  unfold State.storeReg
  cases r with
  | ctrl => exact Uniform.writeCtrl v
  | cmd => exact Uniform.writeCmd v
  | err => exact absurd rfl hr
  | res =>
    exact .ite (fun _ _ _ => .rfl)
      ⟨.set { s with resW := lowHalf v, resH := highHalf v }, fun _ _ _ => rfl⟩ (.raise s .cfg)
  | pin i =>
    exact .ite (fun _ _ _ => .rfl)
      ⟨.set { s with pin := s.pin.set i (lowByte v) }, fun _ _ _ => rfl⟩ (.raise s .cfg)
  | hsw =>
    exact .ite (fun _ _ _ => .rfl) (.raise s .cfg)
      ⟨.set { s with hsw := lowHalf v }, fun _ _ _ => rfl⟩
  | vsw =>
    exact .ite (fun _ _ _ => .rfl) (.raise s .cfg)
      ⟨.set { s with vsw := lowHalf v }, fun _ _ _ => rfl⟩
  | gpio => exact ⟨.set { s with gpio := v.extractLsb' 0 5 }, fun _ _ _ => rfl⟩
  | hbp => exact ⟨.set { s with hbp := lowHalf v }, fun _ _ _ => rfl⟩
  | hfp => exact ⟨.set { s with hfp := lowHalf v }, fun _ _ _ => rfl⟩
  | vbp => exact ⟨.set { s with vbp := lowHalf v }, fun _ _ _ => rfl⟩
  | vfp => exact ⟨.set { s with vfp := lowHalf v }, fun _ _ _ => rfl⟩
  | pclkdiv => exact ⟨.set { s with pclkdiv := lowHalf v }, fun _ _ _ => rfl⟩
  | pol => exact ⟨.set { s with pol := v.extractLsb' 0 4 }, fun _ _ _ => rfl⟩
  | arg0 => exact ⟨.set { s with arg0 := v }, fun _ _ _ => rfl⟩
  | arg1 => exact ⟨.set { s with arg1 := v }, fun _ _ _ => rfl⟩
  | arg2 => exact ⟨.set { s with arg2 := v }, fun _ _ _ => rfl⟩
  | arg3 => exact ⟨.set { s with arg3 := v }, fun _ _ _ => rfl⟩
  | key => exact ⟨.set { s with key := lowHalf v }, fun _ _ _ => rfl⟩
  | colorIn => exact ⟨.set { s with colorIn := v.extractLsb' 0 24 }, fun _ _ _ => rfl⟩
  | _ => exact .raise s .addr

theorem Uniform.writeReg {r : Reg} (v : Word) (hr : r ≠ .err) : Uniform s (·.writeReg r v) :=
  .ite (fun _ _ _ => .rfl) (.raise s .addr) <|
    .ite (fun _ _ _ => .rfl) (.raise s .state) (Uniform.storeReg v hr)

/-! #### The transactions -/

/-- A write to ERR. -/
theorem State.write_err (s : State) (v : Word) : s.write 0x008 .b4 v = .next (s.clearErr v) :=
  State.write_unlocked (r := .err) v rfl rfl

/-- A write to ERR apart, a bus write is uniform. -/
theorem Uniform.write (s : State) (a : BitVec 22) (n : Size) (v : Word) :
    (a = 0x008 ∧ n = .b4) ∨ Uniform s (·.write a n v) := by
  cases hregion : regionOf a with
  | regs off =>
    cases htarget : regTarget off n with
    | none =>
      exact .inr ((Uniform.raise s .addr).congr fun _ _ _ => by
        simp only [State.write, hregion, htarget])
    | some r =>
      by_cases hr : r = .err
      · subst hr
        obtain ⟨hn, hoff⟩ := regTarget_some htarget
        exact .inl ⟨BitVec.eq_of_toNat_eq ((regionOf_eq_regs hregion).trans hoff.symm), hn⟩
      · exact .inr ((Uniform.writeReg v hr).congr fun _ _ _ => by
          simp only [State.write, hregion, htarget])
  | fb off =>
    have hcheck m e r : (s.withFbErr m e r).memCheck .fb off n = s.memCheck .fb off n := rfl
    cases h : s.memCheck .fb off n with
    | some f =>
      exact .inr ((Uniform.raise s f).congr fun _ _ _ => by
        simp only [State.write, hregion, hcheck, h])
    | none =>
      exact .inr ⟨.store off (n.dataBytes v), fun _ _ _ => by
        simp only [State.write, hregion, hcheck, h, WriteAct.apply]⟩
  | scr off =>
    have hcheck m e r : (s.withFbErr m e r).memCheck .scr off n = s.memCheck .scr off n := rfl
    cases h : s.memCheck .scr off n with
    | some f =>
      exact .inr ((Uniform.raise s f).congr fun _ _ _ => by
        simp only [State.write, hregion, hcheck, h])
    | none =>
      exact .inr ⟨.set (s.memWrite .scr off (n.dataBytes v)), fun _ _ _ => by
        simp only [State.write, hregion, hcheck, h]; rfl⟩
  | reserved =>
    exact .inr ((Uniform.raise s .addr).congr fun _ _ _ => by
      simp only [State.write, hregion])

/-- A read is rejected whatever FB and ERR hold, or leaves ERR. -/
theorem State.read_rejects_or_keeps_err (s : State) (a : BitVec 22) (n : Size) :
    (∃ f, ∀ m e r, (s.withFbErr m e r).read a n = (s.withFbErr m e r).rejectRead f) ∨
      ∀ m e r, ((s.withFbErr m e r).read a n).err = r := by
  cases hregion : regionOf a with
  | regs off =>
    cases htarget : regTarget off n with
    | none => exact .inl ⟨.addr, fun _ _ _ => by simp only [State.read, hregion, htarget]⟩
    | some reg => exact .inr fun _ _ _ => by simp only [State.read, hregion, htarget]; rfl
  | fb off =>
    have hcheck m e r : (s.withFbErr m e r).memCheck .fb off n = s.memCheck .fb off n := rfl
    cases h : s.memCheck .fb off n with
    | some f => exact .inl ⟨f, fun _ _ _ => by simp only [State.read, hregion, hcheck, h]⟩
    | none => exact .inr fun _ _ _ => by simp only [State.read, hregion, hcheck, h]; rfl
  | scr off =>
    have hcheck m e r : (s.withFbErr m e r).memCheck .scr off n = s.memCheck .scr off n := rfl
    cases h : s.memCheck .scr off n with
    | some f => exact .inl ⟨f, fun _ _ _ => by simp only [State.read, hregion, hcheck, h]⟩
    | none => exact .inr fun _ _ _ => by simp only [State.read, hregion, hcheck, h]; rfl
  | reserved => exact .inl ⟨.addr, fun _ _ _ => by simp only [State.read, hregion]⟩

end Sys2Proof.Machine

/-! ### FB bytes that were not shown are never observed (70_reset_and_hazards R504) -/

namespace Sys2Proof.Machine

variable {s s' t : State} {m : Memory} {e : Nat}

/-! #### What the block can have shown of FB -/

/-- The bytes of FB below this offset have a specified value: the store in RUNNING and once the
clear is done, what is cleared of it until then, none outside the states in which FB is used. -/
def State.shownBytes (s : State) : Nat :=
  match s.drv, s.eng with
  | .running, _ => s.storeBytes
  | .initializing, .idle => s.storeBytes
  | .initializing, .clearing n => 2 * n
  | _, _ => 0

theorem State.shownBytes_running (hd : s.drv = .running) : s.shownBytes = s.storeBytes := by
  simp only [State.shownBytes, hd]

theorem State.shownBytes_cleared (hd : s.drv = .initializing) (he : s.eng = .idle) :
    s.shownBytes = s.storeBytes := by
  simp only [State.shownBytes, hd, he]

theorem State.shownBytes_clearing {n : Nat} (hd : s.drv = .initializing)
    (he : s.eng = .clearing n) : s.shownBytes = 2 * n := by
  simp only [State.shownBytes, hd, he]

theorem State.shownBytes_unused (hd : s.drv = .uninit ∨ s.drv = .stopped) : s.shownBytes = 0 := by
  obtain hd | hd := hd <;> simp only [State.shownBytes, hd]

/-- The state with another FB and another draw of its unwritten bytes. -/
def State.withFb (s : State) (m : Memory) (e : Nat) : State := { s with fb := m, fbEpoch := e }

/-- `m` and the draw `e` give FB the bytes that `s` can have shown. -/
def State.SameShown (s : State) (m : Memory) (e : Nat) : Prop :=
  ∀ a < s.shownBytes, (s.withFb m e).byteAt .fb a = s.byteAt .fb a

theorem sameButUnseenFb_iff :
    sameButUnseenFb s t ↔ ∃ m e, t = s.withFb m e ∧ s.SameShown m e := by
  have hshown : (s.drv = .running → ∀ a < s.storeBytes, t.byteAt .fb a = s.byteAt .fb a) ∧
      (s.drv = .initializing → s.eng = .idle →
        ∀ a < s.storeBytes, t.byteAt .fb a = s.byteAt .fb a) ∧
      (s.drv = .initializing → ∀ n, s.eng = .clearing n →
        ∀ a < 2 * n, t.byteAt .fb a = s.byteAt .fb a) ↔
      ∀ a < s.shownBytes, t.byteAt .fb a = s.byteAt .fb a := by
    unfold State.shownBytes
    cases s.drv <;> cases s.eng <;> simp
  rw [sameButUnseenFb, hshown]
  constructor
  · rintro ⟨ht, h⟩
    exact ⟨t.fb, t.fbEpoch, ht, h⟩
  · rintro ⟨m, e, rfl, h⟩
    exact ⟨rfl, h⟩

/-- A state that shows no more of the same FB. -/
theorem State.SameShown.mono (h : s.SameShown m e) (hfb : s'.fb = s.fb)
    (hepoch : s'.fbEpoch = s.fbEpoch) (hle : s'.shownBytes ≤ s.shownBytes) : s'.SameShown m e := by
  intro a ha
  have hbyte := h a (ha.trans_le hle)
  simp only [State.byteAt, hfb, hepoch] at hbyte ⊢
  exact hbyte

/-- Within RUNNING the whole store is shown. -/
theorem State.SameShown.in_running (h : s.SameShown m e) (hd : s.drv = .running)
    (hd' : s'.drv = .running) (hfb : s'.fb = s.fb) (hepoch : s'.fbEpoch = s.fbEpoch)
    (hsize : s'.storeBytes = s.storeBytes) : s'.SameShown m e :=
  h.mono hfb hepoch (by rw [State.shownBytes_running hd, State.shownBytes_running hd', hsize])

theorem State.SameShown.of_unused (hd : s.drv = .uninit ∨ s.drv = .stopped) : s.SameShown m e := by
  intro a ha
  rw [State.shownBytes_unused hd] at ha
  exact absurd ha (Nat.not_lt_zero a)

/-- Both states hold the bytes of a write, and elsewhere what they held. -/
theorem State.byteAt_memWrite_congr {off : Nat} {bs : List Byte} {a : Nat}
    (h : (off ≤ a ∧ a < off + bs.length) ∨ t.byteAt .fb a = s.byteAt .fb a) :
    (t.memWrite .fb off bs).byteAt .fb a = (s.memWrite .fb off bs).byteAt .fb a := by
  rw [State.byteAt_memWrite, State.byteAt_memWrite]
  split
  · rfl
  · rename_i hout
    exact h.resolve_left fun hin => hout ⟨rfl, hin⟩

theorem State.SameShown.memWrite (h : s.SameShown m e) (off : Nat) (bs : List Byte) :
    (s.memWrite .fb off bs).SameShown (m.setBytes off bs) e :=
  fun a ha => State.byteAt_memWrite_congr (.inr (h a ha))

/-! #### What the block reads of FB -/

theorem State.SameShown.pixelAt (h : s.SameShown m e) {off : Nat} (ha : off + 2 ≤ s.shownBytes) :
    (s.withFb m e).pixelAt .fb off = s.pixelAt .fb off := by
  rw [State.pixelAt, State.pixelAt, h off (by omega), h (off + 1) (by omega)]

theorem State.SameShown.pix (h : s.SameShown m e) (hd : s.drv = .running) {x y : Int}
    (hin : inb s.width s.height x y) : (s.withFb m e).pix x y = s.pix x y := by
  have hlt : pixOff s.width x y + 2 ≤ s.shownBytes := by
    rw [State.shownBytes_running hd]
    exact pixOff_lt hin
  exact h.pixelAt hlt

theorem State.SameShown.memRead (h : s.SameShown m e) {off : Nat} {n : Size}
    (ha : off + n.bytes ≤ s.shownBytes) :
    (s.withFb m e).memRead .fb off n = s.memRead .fb off n := by
  cases n with
  | b1 => exact congrArg (BitVec.setWidth 32) (h off ha)
  | b2 => exact congrArg (BitVec.setWidth 32) (h.pixelAt ha)
  | b4 =>
    have hsize : off + 4 ≤ s.shownBytes := ha
    rw [State.memRead_b4, State.memRead_b4, h.pixelAt (by omega), h.pixelAt (by omega)]

/-- The scan reads pixels of the store alone (41_timing_generator R235). -/
theorem State.SameShown.periodOut (h : s.SameShown m e) (hd : s.drv = .running) :
    (s.withFb m e).periodOut = s.periodOut := by
  have hdata : (s.withFb m e).scanData = s.scanData := by
    refine ite_congr rfl (fun hde => h.pix hd ?_) fun _ => rfl
    obtain ⟨hx, hy⟩ := of_decide_eq_true hde
    change inb s.width s.height ((s.hcnt - s.ha0 : Nat) : Int) ((s.vcnt - s.va0 : Nat) : Int)
    omega
  have heq : (s.withFb m e).periodOut = { s.periodOut with d := (s.withFb m e).scanData } := rfl
  rw [heq, hdata]
  rfl

theorem State.SameShown.sigstate (h : s.SameShown m e) (half : Half) :
    (s.withFb m e).sigstate half = s.sigstate half := by
  have hout : (s.withFb m e).panelOut = s.panelOut := by
    refine ite_congr rfl (fun hd => ?_) fun _ => rfl
    exact congrArg s.panel.getD (h.periodOut hd)
  have hbit : (s.withFb m e).sigBit half = s.sigBit half := by
    funext i
    simp only [State.sigBit, State.level, hout]
    rfl
  rw [State.sigstate, hbit, State.sigstate]

theorem State.SameShown.regValue (h : s.SameShown m e) (r : Reg) :
    (s.withFb m e).regValue r = s.regValue r := by
  cases r with
  | sigstate => exact h.sigstate s.drawHalf
  | _ => rfl

theorem State.SameShown.readReg (h : s.SameShown m e) (r : Reg) :
    (s.withFb m e).readReg r = (s.readReg r).withFb m e := by
  rw [State.readReg, h.regValue r]
  rfl

/-- A read returns the same value in both states. -/
theorem State.SameShown.read (h : s.SameShown m e) (a : BitVec 22) (n : Size) :
    (s.withFb m e).read a n = (s.read a n).withFb m e := by
  cases hregion : regionOf a with
  | regs off =>
    cases htarget : regTarget off n with
    | none => simp only [State.read, hregion, htarget]; rfl
    | some r => simp only [State.read, hregion, htarget, h.readReg r]
  | fb off =>
    have hcheck : (s.withFb m e).memCheck .fb off n = s.memCheck .fb off n := rfl
    cases hc : s.memCheck .fb off n with
    | some f => simp only [State.read, hregion, hcheck, hc]; rfl
    | none =>
      obtain ⟨-, hd, hbound⟩ := State.memCheck_fb_none hc
      have hval := h.memRead (hbound.trans_eq (State.shownBytes_running hd).symm)
      simp only [State.read, hregion, hcheck, hc, hval]
      rfl
  | scr off =>
    have hcheck : (s.withFb m e).memCheck .scr off n = s.memCheck .scr off n := rfl
    cases hc : s.memCheck .scr off n with
    | some f => simp only [State.read, hregion, hcheck, hc]; rfl
    | none => simp only [State.read, hregion, hcheck, hc]; rfl
  | reserved => simp only [State.read, hregion]; rfl

/-! #### The turns -/

theorem sameButUnseenFb.of_shown (m : Memory) (e : Nat) (ht : t = s.withFb m e)
    (h : s.SameShown m e) : sameButUnseenFb s t :=
  sameButUnseenFb_iff.2 ⟨m, e, ht, h⟩

theorem State.SameShown.same (h : s.SameShown m e) : sameButUnseenFb s (s.withFb m e) :=
  .of_shown m e rfl h

theorem ExecEffect.shownBytes_le {i : Instr} (h : ExecEffect s i s') :
    s'.shownBytes ≤ s.shownBytes := by
  cases h with
  | rejected => exact le_rfl
  | accepted _ _ hr =>
    have hr' : (s.accept i).drv = .running := hr
    rw [State.shownBytes_running hr, State.shownBytes_running hr']
    exact le_rfl
  | init => exact Nat.zero_le _
  | run rsv hd he => exact (State.shownBytes_cleared hd he).ge
  | deinit => exact Nat.zero_le _

theorem WriteEffect.shownBytes_le (h : WriteEffect s s') : s'.shownBytes ≤ s.shownBytes := by
  cases h with
  | action i t h => exact h.shownBytes_le
  | res v hd =>
    have hnone : { s with resW := lowHalf v, resH := highHalf v }.shownBytes = 0 :=
      State.shownBytes_unused hd
    exact hnone.trans_le (Nat.zero_le _)
  | _ => exact le_rfl

theorem State.SameShown.write (h : s.SameShown m e) {a : BitVec 22} {n : Size} {v : Word}
    (hs : s.write a n v = .next s') (ht : (s.withFb m e).write a n v = .next t) :
    sameButUnseenFb s' t := by
  have hle := (State.write_cases hs).shownBytes_le
  obtain ⟨rfl, rfl⟩ | hu := Uniform.write s a n v
  · rw [State.write_err] at hs ht
    cases hs; cases ht
    exact .of_shown m e rfl h
  · obtain ⟨k, hk⟩ := hu
    cases hs.symm.trans (hk s.fb s.fbEpoch s.err)
    cases ht.symm.trans (hk m e s.err)
    cases k with
    | reject f => exact .of_shown m e rfl h
    | set u => exact .of_shown m e rfl (h.mono rfl rfl hle)
    | deinit => exact .of_shown [] (e + 1) rfl (.of_unused (.inr rfl))
    | store off bs => exact .of_shown (m.setBytes off bs) e rfl (h.memWrite off bs)

theorem State.SameShown.hostTurn (h : s.SameShown m e) (hs : s.hostTurn = .next s')
    (ht : (s.withFb m e).hostTurn = .next t) : sameButUnseenFb s' t := by
  cases hq : s.hostQueue with
  | nil =>
    cases hs.symm.trans (State.hostTurn_nil hq)
    cases ht.symm.trans (State.hostTurn_nil hq)
    exact h.same
  | cons op q =>
    have hpop : { s with hostQueue := q }.SameShown m e := h
    cases op with
    | waitIdle =>
      cases hs.symm.trans (State.hostTurn_waitIdle hq)
      cases ht.symm.trans (State.hostTurn_waitIdle hq)
      exact .of_shown m e rfl h
    | txn x =>
      have hs' := (State.hostTurn_txn hq).symm.trans hs
      have ht' := (State.hostTurn_txn (s := s.withFb m e) hq).symm.trans ht
      cases x with
      | read a n =>
        cases hs'
        cases ht'
        refine .of_shown m e (hpop.read a n) (hpop.mono ?_ ?_ ?_)
        all_goals rw [State.read_frame]
        exact le_rfl
      | write a n v => exact hpop.write hs' ht'

theorem State.SameShown.scanTurn (h : s.SameShown m e) :
    sameButUnseenFb s.scanTurn (s.withFb m e).scanTurn := by
  by_cases hd : s.drv = .running
  · rw [State.scanTurn_running hd, State.scanTurn_running (s := s.withFb m e) hd, h.periodOut hd]
    exact .of_shown m e rfl h
  · rw [State.scanTurn_stopped hd, State.scanTurn_stopped (s := s.withFb m e) hd]
    exact h.same

/-- One event of a command: FB is read inside the store, and written alike in both states. -/
theorem State.SameShown.perform (h : s.SameShown m e) (hd : s.drv = .running) (j : Job) {op : Op}
    (hop : op.inside s.width s.height) :
    sameButUnseenFb (s.perform j op) ((s.withFb m e).perform j op) := by
  have hwrite (x y : Int) (v : Pixel) : sameButUnseenFb ((s.setPix x y v).advance j)
      (((s.withFb m e).setPix x y v).advance j) :=
    .of_shown _ e rfl
      ((h.memWrite (pixOff s.width x y) (pixelBytes v)).in_running hd hd rfl rfl rfl)
  cases op with
  | setPix x y v => exact hwrite x y v
  | getPix x y =>
    simp only [State.perform, h.pix hd hop]
    exact .of_shown m e rfl (h.in_running hd hd rfl rfl rfl)
  | copyS src x y skip =>
    have hread : (s.withFb m e).sPix src = s.sPix src := rfl
    simp only [State.perform, hread]
    split
    · exact hwrite x y _
    · split
      · exact .of_shown m e rfl (h.in_running hd hd rfl rfl rfl)
      · exact .of_shown m e rfl (h.in_running hd hd rfl rfl rfl)
  | rotS src dst =>
    have hread : (s.withFb m e).sPix src = s.sPix src := rfl
    simp only [State.perform, hread]
    split
    · exact .of_shown m e rfl (h.in_running hd hd rfl rfl rfl)
    · exact .of_shown m e rfl (h.in_running hd hd rfl rfl rfl)

theorem State.SameShown.finish (h : s.SameShown m e) (hd : s.drv = .running) (j : Job) :
    sameButUnseenFb (s.finish j) ((s.withFb m e).finish j) := by
  refine .of_shown m e ?_ ?_
  · unfold State.finish
    split <;> rfl
  · rw [State.finish_frame]
    exact h.in_running hd hd rfl rfl rfl

/-- The clear's `n`-th pixel is at byte `2 * n`. -/
theorem pixOff_clear {W H n : Nat} (hn : n < W * H) :
    pixOff W ((n % W : Nat) : Int) ((n / W : Nat) : Int) = 2 * n := by
  rw [pixOff_eq (inb_clear hn), Int.toNat_natCast, Int.toNat_natCast, Nat.div_add_mod']

/-- A turn of the clear specifies the bytes of one more pixel, in both states. -/
theorem State.SameShown.clearTurn (h : s.SameShown m e) (hd : s.drv = .initializing) {n : Nat}
    (he : s.eng = .clearing n) : sameButUnseenFb (s.clearTurn n) ((s.withFb m e).clearTurn n) := by
  have hsize : (s.withFb m e).width * (s.withFb m e).height = s.width * s.height := rfl
  simp only [State.clearTurn, hsize]
  split
  · rename_i hn
    refine .of_shown _ e rfl fun a ha => ?_
    have ha : a < 2 * (n + 1) := ha.trans_eq (State.shownBytes_clearing hd rfl)
    refine State.byteAt_memWrite_congr (s := s) (t := s.withFb m e)
      (off := pixOff s.width ((n % s.width : Nat) : Int) ((n / s.width : Nat) : Int)) ?_
    rw [pixelBytes_length, pixOff_clear hn]
    by_cases hlow : a < 2 * n
    · exact .inr (h a (by rwa [State.shownBytes_clearing hd he]))
    · exact .inl (by omega)
  · rename_i hn
    refine .of_shown m e rfl (h.mono rfl rfl ?_)
    have hcleared : { s with eng := .idle }.shownBytes = s.storeBytes :=
      State.shownBytes_cleared hd rfl
    rw [hcleared, State.shownBytes_clearing hd he, State.storeBytes, Nat.mul_assoc]
    omega

theorem State.SameShown.engineTurn (h : s.SameShown m e) (hinv : s.Inv) :
    sameButUnseenFb s.engineTurn (s.withFb m e).engineTurn := by
  obtain ⟨-, hclear, hbusy⟩ := hinv.lifecycle
  have heng : (s.withFb m e).eng = s.eng := rfl
  simp only [State.engineTurn, heng]
  cases he : s.eng with
  | idle => exact h.same
  | clearing n => exact h.clearTurn (hclear (Engine.isClearing_iff.2 ⟨n, he⟩)) he
  | exec j =>
    have hd := hbusy (Engine.busy_iff.2 ⟨j, he⟩)
    have hops : j.ops (s.withFb m e).width (s.withFb m e).height = j.ops s.width s.height := rfl
    simp only [State.execTurn, hops]
    cases hop : (j.ops s.width s.height)[j.k]? with
    | some op => exact h.perform hd j (j.ops_inside _ _ op (List.mem_of_getElem? hop))
    | none => exact h.finish hd j

/-- Both runs give the turn to the same agent. -/
theorem State.turnTaken_withFb (s : State) (m : Memory) (e : Nat) :
    (s.withFb m e).nextAgent = s.nextAgent ∧
      (s.withFb m e).turnTaken = s.turnTaken.withFb m e := by
  refine ⟨rfl, ?_⟩
  have hturns : (s.withFb m e).turns = s.turns := rfl
  simp only [State.turnTaken, hturns]
  split <;> rfl

theorem State.SameShown.agentTurn (h : s.SameShown m e) (hinv : s.Inv) {a : Agent}
    (hs : s.agentTurn a = .next s') (ht : (s.withFb m e).agentTurn a = .next t) :
    sameButUnseenFb s' t := by
  cases a with
  | host => exact h.hostTurn hs ht
  | scan => cases hs; cases ht; exact h.scanTurn
  | engine => cases hs; cases ht; exact h.engineTurn hinv
  | reset => cases hs; cases ht; exact .of_shown [] (e + 1) rfl (.of_unused (.inl rfl))

/-- Settles O60: the next states again differ in FB alone, and show the same of it. -/
theorem fbDrawNeverObserved : Obligations.FbDrawNeverObserved := by
  intro s t s' t' hinv halike hs ht
  obtain ⟨m, e, rfl, h⟩ := sameButUnseenFb_iff.1 halike
  obtain ⟨hagent, htaken⟩ := s.turnTaken_withFb m e
  rw [step, hagent, htaken] at ht
  have hturn : s.turnTaken.SameShown m e := by
    rw [s.turnTaken_eq]
    exact h
  have hnext := hturn.agentTurn (State.inv_turnTaken hinv) hs ht
  have ⟨heq, _⟩ := hnext
  exact ⟨hnext, (congrArg State.rdata heq).symm, (congrArg State.emitted heq).symm⟩

end Sys2Proof.Machine

/-! ### Errors: the step answers, rejections are precise, flags are sticky (60_exceptions) -/

namespace Sys2Proof.Machine

variable {s t : State}

/-- Settles O8: whichever agent moves, its turn answers a next state. -/
theorem everyStepAnswersNext : Obligations.EveryStepAnswersNext :=
  fun s => s.turnTaken.agentTurn_total s.nextAgent

/-! #### A rejection sets one flag (R460, R466) -/

theorem errClear_and_not (v : Word) (r : BitVec 6) : errClear v r &&& ~~~r = 0 := by
  rw [errClear, BitVec.and_assoc, BitVec.and_comm (~~~_), ← BitVec.and_assoc, BitVec.and_not_self]
  exact BitVec.zero_and

/-- A uniform act sets one flag, or leaves ERR. -/
theorem Uniform.rejects_or_keeps_err {act : State → Result} (hu : Uniform s act) :
    (∃ f, ∀ m e r, act (s.withFbErr m e r) = .next ((s.withFbErr m e r).raise f)) ∨
      ∀ m e r t, act (s.withFbErr m e r) = .next t → t.err = r := by
  obtain ⟨k, hk⟩ := hu
  have hkeeps (herr : ∀ u, (k.apply u).err = u.err) m e r t
      (ht : act (s.withFbErr m e r) = .next t) : t.err = r := by
    cases (hk m e r).symm.trans ht
    exact herr _
  cases k with
  | reject f => exact .inl ⟨f, hk⟩
  | set u => exact .inr (hkeeps fun _ => rfl)
  | deinit => exact .inr (hkeeps fun _ => rfl)
  | store off bs => exact .inr (hkeeps fun _ => rfl)

/-- Settles O47: an access that sets a flag is a rejection whatever ERR holds; a write to ERR itself
sets none. -/
theorem rejectionIsPrecise : Obligations.RejectionIsPrecise := by
  refine ⟨fun s t a n v r ht hset => ?_, fun s a n r hset => ?_⟩
  · obtain ⟨rfl, rfl⟩ | hu := Uniform.write s a n v
    · cases (State.write_err { s with err := r } v).symm.trans ht
      exact absurd (errClear_and_not v r) hset
    · obtain ⟨f, h⟩ | h := hu.rejects_or_keeps_err
      · exact ⟨f, h s.fb s.fbEpoch⟩
      · rw [h s.fb s.fbEpoch r t ht, BitVec.and_not_self] at hset
        exact absurd rfl hset
  · obtain ⟨f, h⟩ | h := s.read_rejects_or_keeps_err a n
    · exact ⟨f, h s.fb s.fbEpoch⟩
    · exact absurd (h s.fb s.fbEpoch r) hset

/-! #### Flags are sticky (R463, R467) -/

/-- Every flag set in `s` is set in `t`. -/
def State.KeepsFlags (s t : State) : Prop :=
  ∀ k, s.err.getLsbD k = true → t.err.getLsbD k = true

theorem State.KeepsFlags.of_eq (h : t.err = s.err) : s.KeepsFlags t := fun _ hk => h ▸ hk

theorem State.keepsFlags_raise (s : State) (f : ErrFlag) : s.KeepsFlags (s.raise f) := by
  intro k hk
  rw [State.raise_err, errSet, BitVec.getLsbD_or, hk, Bool.true_or]

/-- A write to ERR clears the flags whose bit it has at 1 (10_state R39). -/
theorem State.clearErr_flag {v : Word} {k : Nat} (hs : s.err.getLsbD k = true)
    (hcleared : (s.clearErr v).err.getLsbD k = false) : v.getLsbD k = true := by
  have hk : k < 6 := BitVec.lt_of_getLsbD hs
  simpa [errClear, hs, hk] using hcleared

/-- No other write clears a flag. -/
theorem Uniform.keepsFlags {act : State → Result} (hu : Uniform s act) (ht : act s = .next t) :
    s.KeepsFlags t := by
  obtain ⟨f, h⟩ | h := hu.rejects_or_keeps_err
  · cases (h s.fb s.fbEpoch s.err).symm.trans ht
    exact s.keepsFlags_raise f
  · exact .of_eq (h s.fb s.fbEpoch s.err t ht)

theorem State.keepsFlags_read (s : State) (a : BitVec 22) (n : Size) :
    s.KeepsFlags (s.read a n) := by
  obtain ⟨f, h⟩ | ⟨r, h⟩ | ⟨v, h⟩ := s.read_cases a n <;> rw [h]
  · exact s.keepsFlags_raise f
  · exact .of_eq rfl
  · exact .of_eq rfl

/-- A turn of the host keeps every flag, or is a write to ERR. -/
theorem HostEffect.flags (h : HostEffect s t) : s.KeepsFlags t ∨
    ∃ v q, s.hostQueue = .txn (.write 0x008 .b4 v) :: q ∧ t.err = errClear v s.err := by
  cases h with
  | none => exact .inl (.of_eq rfl)
  | read a n rest => exact .inl (State.keepsFlags_read { s with hostQueue := rest } a n)
  | write a n v rest hq t ht =>
    obtain ⟨rfl, rfl⟩ | hu := Uniform.write { s with hostQueue := rest } a n v
    · cases (State.write_err _ v).symm.trans ht
      exact .inr ⟨v, rest, hq, rfl⟩
    · exact .inl (hu.keepsFlags ht)
  | waiting => exact .inl (.of_eq rfl)
  | waited => exact .inl (.of_eq rfl)

/-- Settles O48: the scan and the engine leave ERR, and the host clears a flag by a write to ERR
alone. -/
theorem errFlagsAreSticky : Obligations.ErrFlagsAreSticky := by
  refine ⟨fun s t k h hs ht => ?_, State.write_err⟩
  have herr : s.turnTaken.err = s.err := by rw [s.turnTaken_eq]
  rw [← herr] at hs
  obtain ⟨hhost, he⟩ | ⟨-, rfl⟩ | ⟨-, rfl⟩ | ⟨hreset, -⟩ := step_cases h
  · refine .inr ⟨hhost, ?_⟩
    obtain hkept | ⟨v, q, hq, hcleared⟩ := he.flags
    · exact absurd (hkept k hs) (Bool.eq_false_iff.1 ht)
    · exact ⟨v, q, by rwa [State.turnTaken_hostQueue] at hq,
        State.clearErr_flag hs (by rwa [State.clearErr_err, ← hcleared])⟩
  · rw [State.scanTurn_frame] at ht
    exact absurd hs (Bool.eq_false_iff.1 ht)
  · rw [s.turnTaken.engineTurn_cases.frame] at ht
    exact absurd hs (Bool.eq_false_iff.1 ht)
  · exact .inl hreset

end Sys2Proof.Machine

/-! ### Legal writes read back (70_reset_and_hazards R525) -/

namespace Sys2Proof.Machine

variable {s : State} {v : Word}

/-- A field of `k` bits from bit 0 is the word masked. -/
theorem setWidth_extractLsb'_eq_and (v : Word) (k : Nat) :
    (v.extractLsb' 0 k).setWidth 32 = v &&& BitVec.ofNat 32 (2 ^ k - 1) := by
  rw [setWidth_low_bits, ← Nat.and_two_pow_sub_one_eq_mod, BitVec.ofNat_and, BitVec.ofNat_toNat,
    BitVec.setWidth_eq]

/-- The lock classes of the registers, as conditions on STATE (10_state R36(f)). -/
theorem Reg.unlocked {r : Reg} {d : DriverState}
    (hconfig : (r = .res ∨ ∃ i, r = .pin i) → d = .uninit ∨ d = .stopped)
    (hrun : r ∈ [Reg.hsw, .hbp, .hfp, .vsw, .vbp, .vfp, .pclkdiv, .pol] → d ≠ .running) :
    r.lock.locked d = false := by
  cases r with
  | res => exact config_open (hconfig (.inl rfl))
  | pin i => exact config_open (hconfig (.inr ⟨i, rfl⟩))
  | hsw | hbp | hfp | vsw | vbp | vfp | pclkdiv | pol => exact run_open (hrun (by decide))
  | _ => rfl

/-- `r` is writable, and storing `v` in it leads to `u`, where it holds `v` within the mask `m`. -/
def State.StoresAs (s : State) (v : Word) (r : Reg) (m : Word) (u : State) : Prop :=
  r.readOnly = false ∧ s.storeReg r v = .next u ∧ u.regValue r = v &&& m

/-- Once its lock is open, such a register is written by a bus write and read back by a bus read. -/
theorem State.StoresAs.write_read {r : Reg} {m : Word} {u : State} (h : s.StoresAs v r m u)
    (hl : r.lock.locked s.drv = false) :
    s.write (BitVec.ofNat 22 r.offset) .b4 v = .next u ∧
      u.read (BitVec.ofNat 22 r.offset) .b4 = { u with rdata := v &&& m } := by
  obtain ⟨hr, hstore, hread⟩ := h
  have hsig : r ≠ .sigstate := by
    rintro rfl
    cases hr
  rw [State.write_unlocked v hr hl, State.read_register hsig, hread]
  exact ⟨hstore, rfl⟩

theorem halves_append (v : Word) : v.extractLsb' 16 16 ++ v.extractLsb' 0 16 = v := by
  rw [BitVec.extractLsb'_append_extractLsb'_eq_extractLsb' (by omega)]
  exact BitVec.extractLsb'_eq_self

/-- Settles O51: register by register, each stores its field of the word. -/
theorem registerWriteReadsBack : Obligations.RegisterWriteReadsBack := by
  intro s v half rm hrm hconfig hrun hsync hres hpin
  suffices hrow : s.StoresAs v rm.1 rm.2.1 rm.2.2 from hrow.write_read (Reg.unlocked hconfig hrun)
  have hhalf := setWidth_extractLsb'_eq_and v 16
  have hword : v = v &&& 0xFFFFFFFF := BitVec.and_allOnes.symm
  obtain hrm | hrm := List.mem_append.1 hrm
  · simp only [List.mem_cons, List.not_mem_nil, or_false] at hrm
    obtain rfl | rfl | rfl | rfl | rfl | rfl | rfl | rfl | rfl | rfl | rfl | rfl | rfl | rfl | rfl |
      rfl := hrm
    · exact ⟨rfl, rfl, setWidth_extractLsb'_eq_and v 5⟩
    · exact ⟨rfl, if_neg (hsync (.inl rfl)), hhalf⟩
    · exact ⟨rfl, rfl, hhalf⟩
    · exact ⟨rfl, rfl, hhalf⟩
    · exact ⟨rfl, if_neg (hsync (.inr rfl)), hhalf⟩
    · exact ⟨rfl, rfl, hhalf⟩
    · exact ⟨rfl, rfl, hhalf⟩
    · exact ⟨rfl, rfl, hhalf⟩
    · exact ⟨rfl, rfl, setWidth_extractLsb'_eq_and v 4⟩
    · exact ⟨rfl, rfl, hword⟩
    · exact ⟨rfl, rfl, hword⟩
    · exact ⟨rfl, rfl, hword⟩
    · exact ⟨rfl, rfl, hword⟩
    · exact ⟨rfl, rfl, hhalf⟩
    · exact ⟨rfl, rfl, setWidth_extractLsb'_eq_and v 24⟩
    · exact ⟨rfl, if_pos (hres rfl), (halves_append v).trans hword⟩
  · obtain ⟨i, -, rfl⟩ := List.mem_map.1 hrm
    have hset : (s.pin.set i (v.extractLsb' 0 8))[i] = v.extractLsb' 0 8 := by simp
    exact ⟨rfl, if_pos (hpin ⟨i, rfl⟩),
      (congrArg (BitVec.setWidth 32) hset).trans (setWidth_extractLsb'_eq_and v 8)⟩

end Sys2Proof.Machine

/-! ### Reset (70_reset_and_hazards) -/

namespace Sys2Proof.Machine

variable {s t : State}

/-- Settles O57: the reference build is a legal one. -/
theorem resetMeetsInvariant : Obligations.ResetMeetsInvariant :=
  ⟨State.inv_resetOf (by decide), fun _ => State.inv_resetOf⟩

/-- A complete routing in force drives a pad: that of signal 0, which is a required one. -/
theorem State.Inv.drives_pad (h : s.Inv) (hd : s.drv ≠ .uninit) : ∃ p, s.padOE p = true := by
  have hroutes := h.routes hd
  have ⟨_, hmissing, _⟩ := hroutes
  have hassigned : s.route[(0 : Fin 25)] ≠ unassigned := fun hnone =>
    Bool.eq_false_iff.1 hmissing (pinMissing_iff.2 ⟨0, by decide, hnone⟩)
  exact ⟨_, State.padOE_route hd hroutes hassigned⟩

/-- Settles O42: no transition but reset goes to UNINIT, and the invariant is kept. -/
theorem onlyResetReturnsToUninit : Obligations.OnlyResetReturnsToUninit := by
  intro s t h hreset hs
  have ht : t.drv ≠ .uninit := by
    intro hu
    obtain ⟨hr, -⟩ | ⟨-, -, htrans⟩ := stateChangesOnlyByCtrlOrReset s t h (hu ▸ hs.symm)
    · exact hreset hr
    · simp [hu] at htrans
  exact ⟨ht, fun hinv => (stepKeepsInvariant s t hinv h).drives_pad ht⟩

/-- In UNINIT no signal is driven, so SIGSTATE reads 0. -/
theorem State.sigstate_uninit (hd : s.drv = .uninit) (h : Half) : s.sigstate h = 0 := by
  have hbit : s.sigBit h = fun _ => false := funext fun i => by
    rw [State.sigBit, Bool.eq_false_iff.2 fun hi => (State.signalDriven_iff.1 hi).1 hd,
      Bool.false_and]
  rw [State.sigstate, hbit]
  decide

/-- In UNINIT no pad is driven. -/
theorem State.padOE_uninit (hd : s.drv = .uninit) (p : Nat) : s.padOE p = false := by
  refine Bool.eq_false_iff.2 fun hp => ?_
  obtain ⟨-, hused, -⟩ := State.padOE_iff.1 hp
  exact hused hd

/-- Settles O56: the values of `State.resetOf`, and what the functions of the state make of them. -/
theorem resetValues : Obligations.ResetValues := by
  intro s t
  have hpin (i : Fin 25) : (Vector.replicate 25 unassigned)[i] = unassigned := by simp
  have hstatus : t.status = 0 := by
    change (0 : BitVec 28) ++ BitVec.ofBool false ++ BitVec.ofBool false ++ (0 : BitVec 2) = 0
    decide
  have hcolor : t.colorOut = 0 := by
    change (rgb565 0).setWidth 32 = 0
    decide
  refine ⟨⟨rfl, rfl, rfl, rfl, rfl⟩, ⟨rfl, rfl, rfl, rfl, rfl, rfl, rfl, rfl⟩,
    ⟨rfl, rfl, rfl, rfl, rfl, rfl, rfl, rfl⟩, fun i => ⟨hpin i, hpin i⟩, ⟨rfl, rfl, rfl⟩,
    fun a => ⟨rfl, rfl⟩, ⟨rfl, rfl⟩, State.padOE_uninit rfl, hstatus, State.sigstate_uninit rfl,
    hcolor, rfl, rfl, fun hb => ?_⟩
  obtain ⟨⟨-, hpads⟩, -⟩ := hb
  exact BitVec.setWidth_ofNat_of_le_of_lt (by decide) (hpads.trans_lt (by decide))

end Sys2Proof.Machine
